-- ==== Sys2Proof/Word.lean ====
section
/-! DEFINITION. The word types of the block: 32-bit registers and command words (R8), 8-bit codewords and bus bytes. -/

namespace Sys2Proof

/-- A register or command word: 32 bits (R8). -/
abbrev Word := BitVec 32

/-- A codeword, a buffer byte or a field element: 8 bits (R8, R120). -/
abbrev Byte := BitVec 8

end Sys2Proof
end

