-- ==== Sys2Proof/Machine/HostSyntax.lean ====
section
/-! DEFINITION. The host's side as syntax: register and buffer names (R21, R60), bus accesses (R10), the resolved
host statements the host agent runs, and the host assembly of R99 and R100 as written. -/

namespace Sys2Proof.Machine

/-- The registers of R21. -/
inductive RegName where
  | id | ctrl | status | cmd | config | arg0 | arg1 | result | errcode | errinfo | dlen | eclen | bitcnt | mxstat
  | mask | score
  | scores (m : Fin 8)
  /-- PEN1 .. PEN4 are `pen 0` .. `pen 3`. -/
  | pen (k : Fin 4)
  deriving DecidableEq, Repr

/-- The five buffer windows of R60. -/
inductive BufName where
  | text | data | ec | gen | matrix
  deriving DecidableEq, Repr

/-- Where a window starts: off(BUF) of R99. -/
def BufName.windowBase : BufName → Nat
  | .text => 0x100 | .data => 0x200 | .ec => 0x240 | .gen => 0x280 | .matrix => 0x400

/-- A bus access is 8, 16 or 32 bits wide (R8, R63). -/
inductive Width where
  | byte | half | word
  deriving DecidableEq, Repr

/-- MemRead(off, n) and MemWrite(off, n, v) of R10: `off` is the offset from BASE, one of 0x000 .. 0xFFF (R60). -/
inductive BusAccess where
  | read (off : BitVec 12) (w : Width)
  | write (off : BitVec 12) (w : Width) (v : Word)
  deriving DecidableEq, Repr

/-- One turn of the host: a bus access, or a branch of its own control flow (R99 `bnz`, `bz`) to a statement number. -/
inductive HostStmt where
  | access (a : BusAccess)
  | bnz (target : Nat)
  | bz (target : Nat)
  deriving DecidableEq, Repr

/-- The command mnemonics of R94. -/
inductive Mnemonic where
  | NOP | GF_MUL | GF_EXP | GF_LOG | RS_GEN | RS_ENC | BS_BUILD | MX_BUILD | MX_PLACE | MASK_SCORE | MASK_SELECT
  | TBL_CAP | TBL_GEOM | TBL_FMT | ENCODE
  deriving DecidableEq, Repr

/-- The level names of R12 and R100. -/
inductive EccLevel where
  | L | M | Q | H
  deriving DecidableEq, Repr

/-- The host assembly of R99 and its pseudo-instructions (R100). A label is a number (log 15). -/
inductive AsmStmt where
  | label (l : Nat)
  | wr (r : RegName) (imm : Word)
  | rd (r : RegName)
  | wrb (b : BufName) (i : Nat) (imm : Word)
  | rdb (b : BufName) (i : Nat)
  | wrw (b : BufName) (i : Nat) (imm : Word)
  | rdw (b : BufName) (i : Nat)
  /-- `MNEMONIC [m=k] [x]`. -/
  | command (mn : Mnemonic) (m : Option Nat) (x : Bool)
  | bnz (l : Nat)
  | bz (l : Nat)
  /-- `cfg V, LVL`. -/
  | cfg (v : Word) (lvl : EccLevel)
  | wait
  | run (mn : Mnemonic) (m : Option Nat) (x : Bool)
  | wrs (b : BufName) (bytes : List Byte)
  | clr
  deriving DecidableEq, Repr

end Sys2Proof.Machine
end

