-- ==== Sys2Proof/Syntax.lean ====
section
/-! DEFINITION. The commands of the block: one constructor per row of the opcode map (R94). -/

namespace Sys2Proof

/-- A command (R94). The only operands in the command word are X (R93) and MASK (R92). -/
inductive Instr where
  /-- NOP (R270). -/
  | nop
  /-- GF_MUL (R122). -/
  | gfMul
  /-- GF_EXP (R123). -/
  | gfExp
  /-- GF_LOG (R124). -/
  | gfLog
  /-- RS_GEN (R143); `x` is CMDL[11]. -/
  | rsGen (x : Bool)
  /-- RS_ENC (R144); `x` is CMDL[11]. -/
  | rsEnc (x : Bool)
  /-- BS_BUILD (R163). -/
  | bsBuild
  /-- MX_BUILD (R218). -/
  | mxBuild
  /-- MX_PLACE (R222). -/
  | mxPlace
  /-- MASK_SCORE (R249); `m` is CMDL[10:8]. -/
  | maskScore (m : BitVec 3)
  /-- MASK_SELECT (R250). -/
  | maskSelect
  /-- TBL_CAP (R185). -/
  | tblCap
  /-- TBL_GEOM (R186). -/
  | tblGeom
  /-- TBL_FMT (R187); `m` is CMDL[10:8]. -/
  | tblFmt (m : BitVec 3)
  /-- ENCODE (R272). -/
  | encode
  deriving DecidableEq, Repr

end Sys2Proof
end

