-- ==== Sys2Proof/WellFormed.lean ====
section
/-! DEFINITION. What makes a command word's fields (R90) and a host assembly statement (R99) well formed. -/

namespace Sys2Proof

/-- The fields of a command word (R90). -/
structure CommandFields where
  opcode : BitVec 8
  mask : BitVec 3
  x : Bool
  zero : BitVec 20
  deriving DecidableEq, Repr

/-- MASK is used by MASK_SCORE (0x09) and TBL_FMT (0x0D) only (R90, R92). -/
def CommandFields.usesMask (f : CommandFields) : Bool := f.opcode == 0x09#8 || f.opcode == 0x0D#8

/-- X is used by RS_GEN (0x04) and RS_ENC (0x05) only (R90, R93). -/
def CommandFields.usesX (f : CommandFields) : Bool := f.opcode == 0x04#8 || f.opcode == 0x05#8

/-- OPCODE values 0x00 to 0x0E are assigned (R91). -/
def CommandFields.opcodeAssigned (f : CommandFields) : Bool := f.opcode.toNat ≤ 0x0E

/-- MASK must be 0 where it is not used (R90). -/
def CommandFields.maskOk (f : CommandFields) : Bool := f.usesMask || f.mask == 0#3

/-- X must be 0 where it is not used (R90). -/
def CommandFields.xOk (f : CommandFields) : Bool := f.usesX || !f.x

/-- Bits 31:12 must be 0 (R90). -/
def CommandFields.zeroOk (f : CommandFields) : Bool := f.zero == 0#20

/-- A word whose fields pass these four checks is a command; every other word is illegal (R95, R96). -/
def CommandFields.wellFormed (f : CommandFields) : Bool := f.opcodeAssigned && f.maskOk && f.xOk && f.zeroOk

namespace Machine

/-- `m=` is legal only for MASK_SCORE and TBL_FMT, and names one of the masks 0..7 (R99, R92). -/
def Mnemonic.maskOperandOk (mn : Mnemonic) (m : Option Nat) : Bool :=
  match m with
  | none => true
  | some k => (mn == .MASK_SCORE || mn == .TBL_FMT) && k < 8

/-- `x` is legal only for RS_GEN and RS_ENC (R99). -/
def Mnemonic.xOperandOk (mn : Mnemonic) (x : Bool) : Bool := !x || mn == .RS_GEN || mn == .RS_ENC

/-- The checks of R99 on one statement: command operands, a word index that is a multiple of 4, and an offset inside the
4096-byte space (R60). -/
def AsmStmt.wellFormed : AsmStmt → Bool
  | .command mn m x => mn.maskOperandOk m && mn.xOperandOk x
  | .run mn m x => mn.maskOperandOk m && mn.xOperandOk x
  | .wrb b i _ => b.windowBase + i < 0x1000
  | .rdb b i => b.windowBase + i < 0x1000
  | .wrw b i _ => i % 4 == 0 && b.windowBase + i < 0x1000
  | .rdw b i => i % 4 == 0 && b.windowBase + i < 0x1000
  | .wrs b bytes => b.windowBase + bytes.length ≤ 0x1000
  | .label _ => true
  | .wr _ _ => true
  | .rd _ => true
  | .bnz _ => true
  | .bz _ => true
  | .cfg _ _ => true
  | .wait => true
  | .clr => true

end Machine

end Sys2Proof
end

