-- ==== Sys2Proof/Decode.lean ====
section
/-! DEFINITION. Each command's fields, the opcode map (R94), decoding by it (R95), the encoder, and decoding of a table row's word. -/

namespace Sys2Proof

/-- A command word cut into its fields (R90). -/
def fieldsOf (w : Word) : CommandFields where
  opcode := w.extractLsb' 0 8
  mask := w.extractLsb' 8 3
  x := w.getLsbD 11
  zero := w.extractLsb' 12 20

/-- The fields joined into a command word (R90): bit 31 to bit 0. -/
def CommandFields.word (f : CommandFields) : Word :=
  (f.zero ++ BitVec.ofBool f.x ++ f.mask ++ f.opcode).cast (by decide)

/-- The fields of a command's word (R90, R94). -/
def Instr.fields : Instr → CommandFields
  | .nop => ⟨0x00#8, 0#3, false, 0#20⟩
  | .gfMul => ⟨0x01#8, 0#3, false, 0#20⟩
  | .gfExp => ⟨0x02#8, 0#3, false, 0#20⟩
  | .gfLog => ⟨0x03#8, 0#3, false, 0#20⟩
  | .rsGen x => ⟨0x04#8, 0#3, x, 0#20⟩
  | .rsEnc x => ⟨0x05#8, 0#3, x, 0#20⟩
  | .bsBuild => ⟨0x06#8, 0#3, false, 0#20⟩
  | .mxBuild => ⟨0x07#8, 0#3, false, 0#20⟩
  | .mxPlace => ⟨0x08#8, 0#3, false, 0#20⟩
  | .maskScore m => ⟨0x09#8, m, false, 0#20⟩
  | .maskSelect => ⟨0x0A#8, 0#3, false, 0#20⟩
  | .tblCap => ⟨0x0B#8, 0#3, false, 0#20⟩
  | .tblGeom => ⟨0x0C#8, 0#3, false, 0#20⟩
  | .tblFmt m => ⟨0x0D#8, m, false, 0#20⟩
  | .encode => ⟨0x0E#8, 0#3, false, 0#20⟩

/-- A command is well formed when its word's fields are; the type of its operands admits no other (a law). -/
def Instr.wellFormed (i : Instr) : Bool := i.fields.wellFormed

/-- A row of the opcode map (R94): the word `w` selects it when `w AND mask = match`; `command` reads its operands. -/
structure OpcodeRow where
  matchValue : Word
  maskValue : Word
  command : Word → Instr

/-- The 15 rows of R94, in its order. -/
def opcodeMap : List OpcodeRow :=
  [⟨0x00000000#32, 0xFFFFFFFF#32, fun _ => .nop⟩,
   ⟨0x00000001#32, 0xFFFFFFFF#32, fun _ => .gfMul⟩,
   ⟨0x00000002#32, 0xFFFFFFFF#32, fun _ => .gfExp⟩,
   ⟨0x00000003#32, 0xFFFFFFFF#32, fun _ => .gfLog⟩,
   ⟨0x00000004#32, 0xFFFFF7FF#32, fun w => .rsGen (fieldsOf w).x⟩,
   ⟨0x00000005#32, 0xFFFFF7FF#32, fun w => .rsEnc (fieldsOf w).x⟩,
   ⟨0x00000006#32, 0xFFFFFFFF#32, fun _ => .bsBuild⟩,
   ⟨0x00000007#32, 0xFFFFFFFF#32, fun _ => .mxBuild⟩] ++
  [⟨0x00000008#32, 0xFFFFFFFF#32, fun _ => .mxPlace⟩,
   ⟨0x00000009#32, 0xFFFFF8FF#32, fun w => .maskScore (fieldsOf w).mask⟩,
   ⟨0x0000000A#32, 0xFFFFFFFF#32, fun _ => .maskSelect⟩,
   ⟨0x0000000B#32, 0xFFFFFFFF#32, fun _ => .tblCap⟩,
   ⟨0x0000000C#32, 0xFFFFFFFF#32, fun _ => .tblGeom⟩,
   ⟨0x0000000D#32, 0xFFFFF8FF#32, fun w => .tblFmt (fieldsOf w).mask⟩,
   ⟨0x0000000E#32, 0xFFFFFFFF#32, fun _ => .encode⟩]

/-- A word selects a row (R94). -/
def OpcodeRow.selects (r : OpcodeRow) (w : Word) : Bool := (w &&& r.maskValue) == r.matchValue

/-- The first row of a list that the word selects, with its operands read. -/
def decodeIn (rows : List OpcodeRow) (w : Word) : Option Instr :=
  match rows with
  | [] => none
  | r :: rest => if r.selects w then some (r.command w) else decodeIn rest w

/-- Decoding (R95); `none` is the raise of ILLEGAL_COMMAND, made by the step. -/
def decode (w : Word) : Option Instr := decodeIn opcodeMap w

/-- The word of a command (R90, R94). -/
def encode (i : Instr) : Word := i.fields.word

/-- The command of an opcode-table row's word: `w` cut to the row's `nbits` bits. A command is one 32-bit word written
whole to CMD (R97), so there is no byte order to lay out, and a value past 32 bits is no command. -/
def decodeTableWord (nbits w : Nat) : Option Instr :=
  if w % 2 ^ nbits < 2 ^ 32 then decode (BitVec.ofNat 32 (w % 2 ^ nbits)) else none

end Sys2Proof
end

