-- ==== Sys2Proof/Config.lean ====
section
/-! DEFINITION. The open parameters of the block (R8) and the free values the spec leaves open.
Each is an opaque constant: no proof can see its value, so a claim holds whatever it is. -/

namespace Sys2Proof.Config

/-- The 8-bit draw a host read returns in a lane whose byte holds no value (R65, U2, U19, U20).
The first argument numbers the read (`State.draws`), the second the lane. Free value, log 2. -/
opaque freeByte : Nat → Nat → BitVec 8

/-- CMD_LATENCY(op) (R8, R360), in host turns served while the command is pending: the opcode, and the
number of the draw. Used where `State.latencies` names no wait. Free value, log 4. -/
opaque cmdLatency : BitVec 8 → Nat → Nat

/-- BASE / 4096 (R8: BASE is any 4096-byte-aligned host address). Open parameter, log 7. -/
opaque basePage : Nat

end Sys2Proof.Config
end

