-- ==== Sys2Proof/Machine/State.lean ====
section
/-! DEFINITION. The architectural state (R20), as plain data, the ways a step can stop, and the state after power-on
reset (R340, R341). -/

namespace Sys2Proof.Machine

/-- The supported symbol versions (R8). -/
inductive Version where
  | v1 | v2
  deriving DecidableEq, Repr

/-- A matrix cell's tagged value (R40); `true` is dark. -/
inductive Cell where
  | unset
  | data (b : Bool)
  | reserved (b : Bool)
  deriving DecidableEq, Repr

/-- MXSTATE with MXVER (R35): the version is 0 exactly when EMPTY, so EMPTY carries none (log 10). -/
inductive MxState where
  | empty
  | built (v : Version)
  | placed (v : Version)
  | masked (v : Version)
  deriving DecidableEq, Repr

/-- The byte buffers' contents (R20 item 4): (bus offset, byte) pairs at strictly rising offsets. An offset that is not
listed holds no value (R48). -/
abbrev Memory := List Host.Cell

/-- The host agent, outside the block (R26): its program, its position, the value of its last read of any kind, and the
value of its last `rd`, a register read, which the branches test (R99). Log 5. -/
structure HostAgent where
  prog : List HostStmt
  pc : Nat
  rdata : Word
  rd : Word
  deriving DecidableEq, Repr

/-- The model faults (R311): terminal, left only by a new run from reset. -/
inductive Fault where
  /-- BUS_ERROR (R310). Raised by a host access to a reserved offset, an 8- or 16-bit or misaligned register access, or a
  misaligned window access. Safe: the model stops where a bus would answer in some way. -/
  | busError
  /-- UNINIT (R312). Raised by a command that reads a byte (or, unreachably, a cell: log 11) that holds no value. Safe: the
  model stops. -/
  | uninit
  /-- HAZARD (R313). Raised by a host access that is not allowed while a command is pending. Safe: the model stops. -/
  | hazard
  deriving DecidableEq, Repr

/-- Why the model has no meaning for a command. -/
inductive Refusal where
  /-- Raised by an arm of `exec` whose command has no meaning yet. Safe: the model stops. -/
  | notModelled (mnemonic : String)
  deriving DecidableEq, Repr

/-- The state of one block, with the host agent that drives it and the model's own fields (INVENTORY.md, State). Reserved
register bits read 0 and ignore writes (R21), so a register is held as its fields. -/
structure State where
  /-- CTRL.IRQEN (R22). -/
  irqen : Bool
  /-- STATUS.DONE, ERR and OVR (R23). -/
  done : Bool
  err : Bool
  ovr : Bool
  /-- The pending flag, STATUS.BUSY (R47). -/
  pending : Bool
  /-- The command latch CMDL (R47). -/
  cmdl : Word
  /-- CONFIG.VERSION and CONFIG.ECC (R25). -/
  version : BitVec 2
  ecc : BitVec 2
  /-- ARG0 and ARG1 (R28). -/
  arg0 : Word
  arg1 : Word
  /-- RESULT (R29). -/
  result : Word
  /-- ERRCODE.CODE (R30). -/
  errCode : BitVec 4
  /-- ERRINFO.OP and ERRINFO.STAGE (R31). -/
  errOp : Byte
  errStage : Byte
  /-- DLEN, ECLEN, BITCNT (R32, R33, R34). -/
  dlen : BitVec 8
  eclen : BitVec 8
  bitcnt : BitVec 16
  /-- MXSTATE and MXVER (R35). -/
  mx : MxState
  /-- MASK.ID (R36). -/
  mask : BitVec 3
  /-- SCORE (R37), SCORES0..7 (R38), PEN1..4 (R39). -/
  score : Word
  scores : Vector Word 8
  pen1 : Word
  pen2 : Word
  pen3 : Word
  pen4 : Word
  /-- TEXT, DATA, EC and GEN (R41 to R44), by bus offset (R60). -/
  mem : Memory
  /-- MATRIX (R45): 625 cells, row-major; `none` is a cell that holds no value (R48). -/
  matrix : Vector (Option Cell) 625
  /-- The host agent (R3, R26, R99). -/
  host : HostAgent
  /-- Numbers the draws of free values; the model's own. Log 3. -/
  draws : Nat
  /-- Host turns the pending command still waits; the model's own. Log 4. -/
  delay : Nat
  /-- The waits of the commands to come, the environment's choice; the model's own. Log 4. -/
  latencies : List Nat
  deriving DecidableEq, Repr

/-- Power-on reset (R340, R341). The host agent and the model's own fields have no reset value in the spec: logs 3, 4, 5. -/
def State.reset : State where
  irqen := false
  done := false
  err := false
  ovr := false
  pending := false
  cmdl := 0#32
  version := 0#2
  ecc := 0#2
  arg0 := 0#32
  arg1 := 0#32
  result := 0#32
  errCode := 0#4
  errOp := 0#8
  errStage := 0#8
  dlen := 0#8
  eclen := 0#8
  bitcnt := 0#16
  mx := .empty
  mask := 0#3
  score := 0#32
  scores := Vector.replicate 8 0#32
  pen1 := 0#32
  pen2 := 0#32
  pen3 := 0#32
  pen4 := 0#32
  mem := []
  matrix := Vector.replicate 625 none
  host := { prog := [], pc := 0, rdata := 0#32, rd := 0#32 }
  draws := 0
  delay := 0
  latencies := []

end Sys2Proof.Machine
end

