-- ==== Sys2Proof/Machine/Ops.lean ====
section
/-! DEFINITION. The shared operations: the byte memory, the matrix, and the start and the end of a command
(acceptance R301, `complete` R302, `raise` R303, soft reset R342). -/

namespace Sys2Proof.Machine

/-! ### The byte memory (R41 to R44, R48, R60) -/

/-- The offsets of TEXT, DATA, EC and GEN (R60): 0x100 to 0x2BF. -/
def isBufferOffset (a : Nat) : Bool := 0x100 ≤ a && a < 0x2C0

/-- The canonical form: offsets strictly rising, each inside a buffer. Equal memories are then equal lists (log 1). -/
abbrev Memory.wf (m : Memory) : Prop :=
  m.Pairwise (fun p q => p.1 < q.1) ∧ ∀ p ∈ m, isBufferOffset p.1 = true

/-- The byte at an offset; `none` when it holds no value (R48). -/
def Memory.get? : Memory → Nat → Option Byte
  | [], _ => none
  | (b, w) :: m, a => if a = b then some w else Memory.get? m a

/-- Give the byte at an offset a value (R48, R66). -/
def Memory.set : Memory → Nat → Byte → Memory
  | [], a, v => [(a, v)]
  | (b, w) :: m, a, v =>
    if a < b then (a, v) :: (b, w) :: m
    else if a = b then (a, v) :: m
    else (b, w) :: Memory.set m a v

/-- Give the bytes from an offset upward the values of a list (R64). -/
def Memory.setAll (m : Memory) (a : Nat) : List Byte → Memory
  | [] => m
  | v :: vs => Memory.setAll (m.set a v) (a + 1) vs

/-- The `n` bytes from an offset upward; `none` when one of them holds no value (R312). -/
def Memory.readAll (m : Memory) (a : Nat) : Nat → Option (List Byte)
  | 0 => some []
  | n + 1 =>
    match m.get? a, Memory.readAll m (a + 1) n with
    | some v, some vs => some (v :: vs)
    | _, _ => none

/-! ### Codes and sizes -/

/-- N = 4 V + 17 (R8, R210). -/
def Version.size : Version → Nat
  | .v1 => 21
  | .v2 => 25

/-- MXVER and CONFIG.VERSION as a number (R25, R35). -/
def Version.code : Version → BitVec 2
  | .v1 => 1#2
  | .v2 => 2#2

/-- CONFIG.VERSION in {1, 2} (R25); 0 and 3 are unsupported. -/
def Version.ofCode? (b : BitVec 2) : Option Version :=
  if b = 1#2 then some .v1 else if b = 2#2 then some .v2 else none

/-- CONFIG.ECC (R25): 0 = L, 1 = M, 2 = Q, 3 = H. -/
def EccLevel.ofCode (b : BitVec 2) : EccLevel :=
  if b = 0#2 then .L else if b = 1#2 then .M else if b = 2#2 then .Q else .H

/-- The level index of R25 and R100. -/
def EccLevel.code : EccLevel → BitVec 2
  | .L => 0#2
  | .M => 1#2
  | .Q => 2#2
  | .H => 3#2

/-- The error codes of R300, less NONE. -/
inductive ErrCode where
  | illegalCommand | unsupportedConfiguration | badArgument | invalidState | domain | capacityExceeded | layoutOverflow
  | layoutUnderflow
  deriving DecidableEq, Repr

/-- The numbers of R300. -/
def ErrCode.code : ErrCode → BitVec 4
  | .illegalCommand => 1#4
  | .unsupportedConfiguration => 2#4
  | .badArgument => 3#4
  | .invalidState => 4#4
  | .domain => 5#4
  | .capacityExceeded => 6#4
  | .layoutOverflow => 7#4
  | .layoutUnderflow => 8#4

/-! ### The matrix (R40, R45) -/

/-- The DARK bit (R40); an Unset cell reads as light. -/
def Cell.dark : Cell → Bool
  | .unset => false
  | .data b => b
  | .reserved b => b

/-- The cell is of a fixed pattern or of the format area (R40). -/
def Cell.isReserved : Cell → Bool
  | .unset => false
  | .data _ => false
  | .reserved _ => true

/-- The byte the host sees (R40): DARK in bit 0, KIND in bits 2:1. -/
def Cell.toByte : Cell → Byte
  | .unset => 0x00#8
  | .data false => 0x02#8
  | .data true => 0x03#8
  | .reserved false => 0x04#8
  | .reserved true => 0x05#8

/-- The cells of an N by N matrix, row by row, row 0 first, column 0 first (R210). -/
abbrev Grid := List (List Cell)

/-- M(r, c) (R10); outside the matrix there is no cell. -/
def Grid.cell? (g : Grid) (r c : Nat) : Option Cell :=
  match g[r]? with
  | none => none
  | some row => row[c]?

/-- Cell(r, c) <- k (R10). -/
def Grid.setCell (g : Grid) (r c : Nat) (cell : Cell) : Grid := g.modify r (fun row => row.set c cell)

/-- `f` of the index, counted from `i`, and the element. -/
def mapFrom {α β : Type} (f : Nat → α → β) (i : Nat) : List α → List β
  | [] => []
  | x :: xs => f i x :: mapFrom f (i + 1) xs

/-- Every cell replaced by `f` of its row, its column and itself. -/
def Grid.mapCells (f : Nat → Nat → Cell → Cell) (g : Grid) : Grid :=
  mapFrom (fun r row => mapFrom (fun c cell => f r c cell) 0 row) 0 g

/-- All of a list's values; `none` when one is missing. -/
def allSome {α : Type} : List (Option α) → Option (List α)
  | [] => some []
  | none :: _ => none
  | some x :: xs =>
    match allSome xs with
    | none => none
    | some ys => some (x :: ys)

/-- Cut a row-major list into `n` rows of `w` cells (R45). -/
def rowsOf (w : Nat) : Nat → List Cell → Grid
  | 0, _ => []
  | n + 1, cells => cells.take w :: rowsOf w n (cells.drop w)

/-- Replace the front of a list of cells; the rest stays. -/
def overlayList : List Cell → List (Option Cell) → List (Option Cell)
  | [], old => old
  | _ :: _, [] => []
  | c :: cs, _ :: old => some c :: overlayList cs old

theorem overlayList_length (cs : List Cell) (old : List (Option Cell)) :
    (overlayList cs old).length = old.length := by
  induction cs generalizing old with
  | nil => rfl
  | cons c cs ih => cases old <;> simp [overlayList, ih]

/-- Replace the front of the cell array (index 0 upward); the cells past the list stay. -/
def overlay (cs : List Cell) (m : Vector (Option Cell) 625) : Vector (Option Cell) 625 :=
  ⟨(overlayList cs m.toList).toArray, by simp [overlayList_length]⟩

/-- The N by N matrix of a version, cells 0 .. N² − 1 of MATRIX with stride N (R45); `none` when one of them holds no
value, which no reachable command meets (R312, log 11). -/
def State.readGrid (s : State) (v : Version) : Option Grid :=
  match allSome (s.matrix.toList.take (v.size * v.size)) with
  | none => none
  | some cells => some (rowsOf v.size v.size cells)

/-- Write an N by N matrix to cells 0 .. N² − 1 of MATRIX (R45). -/
def State.writeGrid (s : State) (g : Grid) : State := { s with matrix := overlay g.flatten s.matrix }

/-! ### The start of a command (R301) -/

/-- Acceptance (R301): latch the word, become pending, clear DONE and ERR; OVR stays. -/
def State.latch (s : State) (w : Word) : State :=
  { s with cmdl := w, pending := true, done := false, err := false }

/-- How long the accepted command waits (R360): the environment's next choice, or a free value (log 4). -/
def State.setWait (s : State) (w : Word) : State :=
  match s.latencies with
  | n :: rest => { s with delay := n, latencies := rest }
  | [] => { s with delay := Config.cmdLatency (w.extractLsb' 0 8) s.draws, draws := s.draws + 1 }

/-- A CMD write (R24, R301, R306): dropped with OVR set while a command is pending, else accepted. -/
def State.writeCmd (s : State) (w : Word) : State :=
  if s.pending then { s with ovr := true } else (s.latch w).setWait w

/-! ### The end of a command (R302, R303) -/

/-- `complete()` (R302). -/
def State.complete (s : State) : State :=
  { s with errCode := 0#4, errOp := 0#8, errStage := 0#8, pending := false, done := true }

/-- `raise NAME(stage)` (R303): the block's only exception entry. ERRCODE and ERRINFO save the code, the opcode and the
stage; STATUS becomes not busy, DONE and ERR; control goes nowhere inside the block. There is no return (R307). -/
def State.raise (s : State) (e : ErrCode) (stage : Byte) : State :=
  { s with
    errCode := e.code
    errOp := s.cmdl.extractLsb' 0 8
    errStage := stage
    pending := false
    done := true
    err := true }

/-- The word that selects no row (R95, R96): ILLEGAL_COMMAND with stage CMDL[7:0]. -/
def State.raiseIllegal (s : State) : State := s.raise .illegalCommand (s.cmdl.extractLsb' 0 8)

/-- What the body of a command rule (R271) comes to: its writes, an error raised before any write (R303), or UNINIT. -/
inductive Body where
  | ok (s : State)
  | error (e : ErrCode) (stage : Byte)
  | uninit
  deriving DecidableEq, Repr

/-- The bodies of the stages in order (R271, R272), then `complete()`. A stage that raises ends the command: the stages
before it keep their writes (R303). A command other than ENCODE is one stage. -/
def runStages : List (State → Body) → State → Host.Outcome State Fault Refusal
  | [], s => .next s.complete
  | b :: bs, s =>
    match b s with
    | .ok t => runStages bs t
    | .error e stage => .next (s.raise e stage)
    | .uninit => .fault .uninit

/-! ### Soft reset (R342) -/

/-- Soft reset (R342): every register to its reset value, MXSTATE to EMPTY, a pending command abandoned. If one was
pending, every byte and cell loses its value; else they are kept. The host agent and the model's own draws stay (log 12). -/
def State.softReset (s : State) : State :=
  { State.reset with
    mem := if s.pending then State.reset.mem else s.mem
    matrix := if s.pending then State.reset.matrix else s.matrix
    host := s.host
    draws := s.draws
    latencies := s.latencies }

end Sys2Proof.Machine
end

