-- ==== Sys2Proof/Machine/Flags.lean ====
section
/-! DEFINITION. STATUS, its write-one-to-clear bits, the other registers as the host reads and writes them (R21 to R39),
and the irq output (R49). -/

namespace Sys2Proof.Machine

/-- STATUS as read (R23): BUSY, DONE, ERR, OVR in bits 0 to 3. -/
def State.statusWord (s : State) : Word :=
  (BitVec.ofBool s.ovr ++ BitVec.ofBool s.err ++ BitVec.ofBool s.done ++ BitVec.ofBool s.pending).setWidth 32

/-- A STATUS write (R23): a 1 in bit 1, 2 or 3 clears that bit; everything else is ignored. -/
def State.writeStatus (s : State) (v : Word) : State :=
  { s with
    done := s.done && !v.getLsbD 1
    err := s.err && !v.getLsbD 2
    ovr := s.ovr && !v.getLsbD 3 }

/-- A CTRL write (R22, R342): SRST = 1 is a soft reset, whatever bit 0 is; else IRQEN takes bit 0. -/
def State.writeCtrl (s : State) (v : Word) : State :=
  if v.getLsbD 1 then s.softReset else { s with irqen := v.getLsbD 0 }

/-- A CONFIG write (R25): VERSION in bits 1:0, ECC in bits 3:2, the rest ignored. -/
def State.writeConfig (s : State) (v : Word) : State :=
  { s with version := v.extractLsb' 0 2, ecc := v.extractLsb' 2 2 }

/-- CONFIG as read (R25). -/
def State.configWord (s : State) : Word := (s.ecc ++ s.version).setWidth 32

/-- ERRINFO as read (R31): OP in bits 7:0, STAGE in bits 15:8. -/
def State.errinfoWord (s : State) : Word := (s.errStage ++ s.errOp).setWidth 32

/-- MXSTATE's code (R35). -/
def MxState.stateCode : MxState → BitVec 2
  | .empty => 0#2
  | .built _ => 1#2
  | .placed _ => 2#2
  | .masked _ => 3#2

/-- The version the matrix was built for; none when EMPTY (R35). -/
def MxState.version? : MxState → Option Version
  | .empty => none
  | .built v => some v
  | .placed v => some v
  | .masked v => some v

/-- MXSTAT as read (R35): STATE in bits 1:0, VER in bits 3:2, N in bits 15:8; VER and N are 0 when EMPTY. -/
def MxState.word (m : MxState) : Word :=
  match m.version? with
  | none => (m.stateCode).setWidth 32
  | some v => (BitVec.ofNat 8 v.size ++ 0#4 ++ v.code ++ m.stateCode).setWidth 32

/-- ID (R27). -/
def idWord : Word := 0x51520007#32

/-- irq = CTRL.IRQEN AND STATUS.DONE (R49, R305). -/
def State.irq (s : State) : Bool := s.irqen && s.done

/-- A register as the host reads it (R21 to R39). Reads have no side effects (R67). -/
def State.readReg (s : State) : RegName → Word
  | .id => idWord
  | .ctrl => (BitVec.ofBool s.irqen).setWidth 32
  | .status => s.statusWord
  | .cmd => 0#32
  | .config => s.configWord
  | .arg0 => s.arg0
  | .arg1 => s.arg1
  | .result => s.result
  | .errcode => s.errCode.setWidth 32
  | .errinfo => s.errinfoWord
  | .dlen => s.dlen.setWidth 32
  | .eclen => s.eclen.setWidth 32
  | .bitcnt => s.bitcnt.setWidth 32
  | .mxstat => s.mx.word
  | .mask => s.mask.setWidth 32
  | .score => s.score
  | .scores m => s.scores.get m
  | .pen k => if k = 0 then s.pen1 else if k = 1 then s.pen2 else if k = 2 then s.pen3 else s.pen4

/-- A host write of a register (R21): read-only registers ignore it. -/
def State.writeReg (s : State) (r : RegName) (v : Word) : State :=
  match r with
  | .ctrl => s.writeCtrl v
  | .status => s.writeStatus v
  | .cmd => s.writeCmd v
  | .config => s.writeConfig v
  | .arg0 => { s with arg0 := v }
  | .arg1 => { s with arg1 := v }
  | .id => s
  | .result => s
  | .errcode => s
  | .errinfo => s
  | .dlen => s
  | .eclen => s
  | .bitcnt => s
  | .mxstat => s
  | .mask => s
  | .score => s
  | .scores _ => s
  | .pen _ => s

end Sys2Proof.Machine
end

