-- ==== Sys2Proof/Machine/Bus.lean ====
section
/-! DEFINITION. The address map (R60, R61), the checks on an access (R62, R63, R313), what a read returns and a write
does (R64 to R67), and one turn of the host (R70, R99). -/

namespace Sys2Proof.Machine

/-- The regions of the map (R60). -/
inductive Region where
  | registers
  | window (b : BufName)
  | reserved
  deriving DecidableEq, Repr

/-- The region an offset lies in (R60). -/
def regionOf (o : Nat) : Region :=
  if o < 0x070 then .registers
  else if o < 0x100 then .reserved
  else if o < 0x200 then .window .text
  else if o < 0x240 then .window .data
  else if o < 0x280 then .window .ec
  else if o < 0x2C0 then .window .gen
  else if o < 0x400 then .reserved
  else if o < 0x680 then .window .matrix
  else .reserved

/-- A register's offset (R21). -/
def RegName.offset : RegName → Nat
  | .id => 0x000
  | .ctrl => 0x004
  | .status => 0x008
  | .cmd => 0x00C
  | .config => 0x010
  | .arg0 => 0x014
  | .arg1 => 0x018
  | .result => 0x01C
  | .errcode => 0x020
  | .errinfo => 0x024
  | .dlen => 0x028
  | .eclen => 0x02C
  | .bitcnt => 0x030
  | .mxstat => 0x034
  | .mask => 0x038
  | .score => 0x03C
  | .scores m => 0x040 + 4 * m.val
  | .pen k => 0x060 + 4 * k.val

/-- The registers of R21 from 0x000 to 0x03C, in the order of their offsets. -/
def singleRegs : List RegName :=
  [.id, .ctrl, .status, .cmd, .config, .arg0, .arg1, .result, .errcode, .errinfo, .dlen, .eclen, .bitcnt, .mxstat,
    .mask, .score]

/-- The 28 registers of R21 in the order of their offsets. -/
def allRegs : List RegName :=
  singleRegs ++ (List.finRange 8).map RegName.scores ++ (List.finRange 4).map RegName.pen

/-- The register at an offset. -/
def regAt (o : Nat) : Option RegName := allRegs.find? (fun r => r.offset == o)

/-- The bytes of an access (R63). -/
def Width.bytes : Width → Nat
  | .byte => 1
  | .half => 2
  | .word => 4

/-- The offset and the width of an access. -/
def BusAccess.offset : BusAccess → Nat
  | .read o _ => o.toNat
  | .write o _ _ => o.toNat

def BusAccess.width : BusAccess → Width
  | .read _ w => w
  | .write _ w _ => w

/-- BUS_ERROR (R61 to R63, R310): a reserved offset, a register access that is not an aligned word, or a misaligned
window access. -/
def BusAccess.busError (a : BusAccess) : Bool :=
  match regionOf a.offset with
  | .reserved => true
  | .registers => a.width != .word || a.offset % 4 != 0
  | .window _ => a.offset % a.width.bytes != 0

/-- The accesses allowed while a command is pending (R313): a read of STATUS, and writes of STATUS, CTRL and CMD. -/
def BusAccess.allowedWhilePending : BusAccess → Bool
  | .read o _ => regAt o.toNat == some .status
  | .write o _ _ => regAt o.toNat == some .status || regAt o.toNat == some .ctrl || regAt o.toNat == some .cmd

/-- The byte at a window offset, `none` when it holds no value (R48, R60). MATRIX offsets 0 to 624 are the cells' bytes,
625 to 639 read 0x00 (R45). Outside the windows there is no byte. -/
def State.byteAt (s : State) (o : Nat) : Option Byte :=
  match regionOf o with
  | .window .matrix =>
    if h : o - 0x400 < 625 then (s.matrix[o - 0x400]).map Cell.toByte else some 0x00#8
  | .window _ => s.mem.get? o
  | .registers => none
  | .reserved => none

/-- The byte a host read returns in a lane (R65): the byte's value, or a free draw. -/
def State.lane (s : State) (o k : Nat) : Byte :=
  match s.byteAt (o + k) with
  | some v => v
  | none => Config.freeByte s.draws k

/-- Little-endian (R64): the first byte in bits 7:0. -/
def wordOfBytes : List Byte → Word
  | [] => 0#32
  | b :: bs => (wordOfBytes bs <<< 8) ||| b.setWidth 32

/-- The first `n` bytes of a bus value, bits 7:0 first (R64). -/
def bytesOfWord (v : Word) : Nat → List Byte
  | 0 => []
  | n + 1 => v.setWidth 8 :: bytesOfWord (v >>> 8) n

/-- MemRead of a window (R64, R65), zero-extended to the bus width (log 14). -/
def State.readWindow (s : State) (o n : Nat) : Word := wordOfBytes ((List.range n).map (fun k => s.lane o k))

/-- MemWrite of a window (R64, R66): TEXT, DATA and EC store the bytes, GEN and MATRIX ignore them. -/
def State.writeWindow (s : State) (b : BufName) (o n : Nat) (v : Word) : State :=
  match b with
  | .text => { s with mem := s.mem.setAll o (bytesOfWord v n) }
  | .data => { s with mem := s.mem.setAll o (bytesOfWord v n) }
  | .ec => { s with mem := s.mem.setAll o (bytesOfWord v n) }
  | .gen => s
  | .matrix => s

/-- The value of a window read (`rdb`, `rdw`) reaches the host. -/
def State.setRdata (s : State) (v : Word) : State := { s with host := { s.host with rdata := v } }

/-- The value of a register read (`rd`) reaches the host, and is what its next branch tests (R99). -/
def State.setRd (s : State) (v : Word) : State := { s with host := { s.host with rdata := v, rd := v } }

/-- What an access does once no model fault applies. A window read is one draw (R65, U2). -/
def State.perform (s : State) (a : BusAccess) : Host.Outcome State Fault Refusal :=
  match a with
  | .read o w =>
    match regionOf o.toNat with
    | .registers =>
      match regAt o.toNat with
      | some r => .next (s.setRd (s.readReg r))
      | none => .fault .busError
    | .window _ => .next { s.setRdata (s.readWindow o.toNat w.bytes) with draws := s.draws + 1 }
    | .reserved => .fault .busError
  | .write o w v =>
    match regionOf o.toNat with
    | .registers =>
      match regAt o.toNat with
      | some r => .next (s.writeReg r v)
      | none => .fault .busError
    | .window b => .next (s.writeWindow b o.toNat w.bytes v)
    | .reserved => .fault .busError

/-- One host bus access: BUS_ERROR (R310), then HAZARD (R313) (log 8 says why in this order), else its effect. -/
def State.access (s : State) (a : BusAccess) : Host.Outcome State Fault Refusal :=
  if a.busError then .fault .busError
  else if s.pending && !a.allowedWhilePending then .fault .hazard
  else s.perform a

/-- The host agent at a position of its program. -/
def State.setPc (s : State) (n : Nat) : State := { s with host := { s.host with pc := n } }

/-- One turn of the host (R70, R99): its next statement. `bnz` and `bz` test bit 0 of the last `rd`, whatever window
reads came after it. A host whose program is over does nothing (R325, log 21). -/
def State.hostTurn (s : State) : Host.Outcome State Fault Refusal :=
  match s.host.prog[s.host.pc]? with
  | none => .next s
  | some (.access a) => (s.setPc (s.host.pc + 1)).access a
  | some (.bnz t) => .next (s.setPc (if s.host.rd.getLsbD 0 then t else s.host.pc + 1))
  | some (.bz t) => .next (s.setPc (if s.host.rd.getLsbD 0 then s.host.pc + 1 else t))

/-- BASE (R8): a 4096-byte-aligned address. -/
def baseAddress : Nat := 4096 * Config.basePage

/-- The offset at which a host address reaches the block, if it does (R3, R60). -/
def blockOffset (addr : Nat) : Option (BitVec 12) :=
  if baseAddress ≤ addr && addr < baseAddress + 4096 then some (BitVec.ofNat 12 (addr - baseAddress)) else none

end Sys2Proof.Machine
end

