-- ==== Sys2Proof/Machine/Roms.lean ====
section
/-! DEFINITION. The read-only constants (R46): the EXP and LOG ROMs (R120), the capacity table (R180), the geometry
table (R181), the remainder bits (R182) and the format words (R183). -/

namespace Sys2Proof.Machine

/-! ### The field ROMs (R120), row by row as the spec prints them: the first byte of a row is its column 0 -/

/-- Byte `i` of a ROM of 16 rows of 16 bytes. -/
def romByte (rows : List Nat) (i : Byte) : Byte :=
  BitVec.ofNat 8 (rows.getD (i.toNat / 16) 0 >>> (8 * (15 - i.toNat % 16)))

/-- The EXP ROM's rows (R120). -/
def expRows : List Nat :=
  [0x01020408102040801D3A74E8CD871326, 0x4C982D5AB475EAC98F03060C183060C0,
   0x9D274E9C254A94356AD4B577EEC19F23, 0x468C050A142850A05DBA69D2B96FDEA1,
   0x5FBE61C2992F5EBC65CA890F1E3C78F0, 0xFDE7D3BB6BD6B17FFEE1DFA35BB671E2,
   0xD9AF4386112244880D1A3468D0BD67CE, 0x811F3E7CF8EDC7933B76ECC5973366CC] ++
  [0x85172E5CB86DDAA94F9E214284152A54, 0xA84D9A2952A455AA49923972E4D5B773,
   0xE6D1BF63C6913F7EFCE5D7B37BF6F1FF, 0xE3DBAB4B963162C495376EDCA557AE41,
   0x82193264C88D070E1C3870E0DDA753A6, 0x51A259B279F2F9EFC39B2B56AC458A09,
   0x122448903D7AF4F5F7F3FBEBCB8B0B16, 0x2C58B07DFAE9CF831B366CD8AD478E01]

/-- The LOG ROM's rows (R120). LOG[0] holds no value; the 00 in its place is never read (`gfLog?`). -/
def logRows : List Nat :=
  [0x0000011902321AC603DF33EE1B68C74B, 0x0464E00E348DEF811CC169F8C8084C71,
   0x058A652FE1240F2135938EDAF0128245, 0x1DB5C27D6A27F9B9C99A09784DE472A6,
   0x06BF8B6266DD30FDE29825B310912288, 0x36D094CE8F96DBBDF1D2135C83384640,
   0x1E42B6A3C3487E6E6B3A2854FA85BA3D, 0xCA5E9B9F0A15792B4ED4E5AC73F3A757] ++
  [0x0770C0F78C80630D674ADEED31C5FE18, 0xE3A5997726B8B47C114492D92320892E,
   0x373FD15B95BCCFCD908797B2DCFCBE61, 0xF256D3AB142A5D9E843C3953476D41A2,
   0x1F2D43D8B77BA476C41749EC7F0C6FF6, 0x6CA13B52299D55AAFB6086B1BBCC3E5A,
   0xCB595FB09CA9A0510BF516EB7A752CD7, 0x4FAED5E9E6E7ADE874D6F4EAA85058AF]

/-- EXP[i] (R120). -/
def gfExp (i : Byte) : Byte := romByte expRows i

/-- LOG[v] (R120); LOG[0] holds no value. -/
def gfLog? (v : Byte) : Option Byte := if v = 0#8 then none else some (romByte logRows v)

/-! ### Capacity, geometry and format (R180 to R183) -/

/-- A row of the capacity table (R180): total, data and EC codewords, and EC blocks. -/
structure Capacity where
  total : Nat
  dataCount : Nat
  ecCount : Nat
  blocks : Nat
  deriving DecidableEq, Repr

/-- The capacity table (R180). -/
def capacity : Version → EccLevel → Capacity
  | .v1, .L => ⟨26, 19, 7, 1⟩
  | .v1, .M => ⟨26, 16, 10, 1⟩
  | .v1, .Q => ⟨26, 13, 13, 1⟩
  | .v1, .H => ⟨26, 9, 17, 1⟩
  | .v2, .L => ⟨44, 34, 10, 1⟩
  | .v2, .M => ⟨44, 28, 16, 1⟩
  | .v2, .Q => ⟨44, 22, 22, 1⟩
  | .v2, .H => ⟨44, 16, 28, 1⟩

/-- T(V) (R180): it depends on the version only. -/
def totalCodewords : Version → Nat
  | .v1 => 26
  | .v2 => 44

/-- AC(V) (R186): the alignment centre's row and column, 0 when there is none. -/
def alignmentCentre : Version → Nat
  | .v1 => 0
  | .v2 => 18

/-- REM(V) (R182). -/
def remainderBits : Version → Nat
  | .v1 => 0
  | .v2 => 7

/-- DATACELLS(V) (R181). -/
def dataCells : Version → Nat
  | .v1 => 208
  | .v2 => 359

/-- The format words of a level (R183), mask 0 first. -/
def formatWords : EccLevel → List Nat
  | .L => [0x77C4, 0x72F3, 0x7DAA, 0x789D, 0x662F, 0x6318, 0x6C41, 0x6976]
  | .M => [0x5412, 0x5125, 0x5E7C, 0x5B4B, 0x45F9, 0x40CE, 0x4F97, 0x4AA0]
  | .Q => [0x355F, 0x3068, 0x3F31, 0x3A06, 0x24B4, 0x2183, 0x2EDA, 0x2BED]
  | .H => [0x1689, 0x13BE, 0x1CE7, 0x19D0, 0x0762, 0x0255, 0x0D0C, 0x083B]

/-- FMT(L, m) (R183), 15 bits. -/
def formatWord (l : EccLevel) (m : BitVec 3) : BitVec 15 := BitVec.ofNat 15 ((formatWords l).getD m.toNat 0)

end Sys2Proof.Machine
end

