-- ==== Sys2Proof/Machine/Operands.lean ====
section
/-! DEFINITION. Where each command's operands come from (R98), with the checks on them (R25, R93, R304). -/

namespace Sys2Proof.Machine

/-- ARG0[7:0], the first field operand and the table index (R28, R98, R122 to R124). -/
def State.fieldArg0 (s : State) : Byte := s.arg0.setWidth 8

/-- ARG1[7:0], the second field operand (R28, R98, R122). -/
def State.fieldArg1 (s : State) : Byte := s.arg1.setWidth 8

/-- ARG0 as a count: the whole 32-bit value (R28, R98). -/
def State.countArg0 (s : State) : Nat := s.arg0.toNat

/-- ARG1 as a count: the whole 32-bit value (R28, R98). -/
def State.countArg1 (s : State) : Nat := s.arg1.toNat

/-- CONFIG.ECC as a level; every value is supported (R25). -/
def State.level (s : State) : EccLevel := EccLevel.ofCode s.ecc

/-- CONFIG.VERSION, checked (R25, R300): 0 and 3 are unsupported. -/
def State.checkedVersion (s : State) : Except ErrCode Version :=
  match Version.ofCode? s.version with
  | some v => .ok v
  | none => .error .unsupportedConfiguration

/-- The row of the capacity table CONFIG selects, with VERSION checked (R180, R98). -/
def State.checkedCapacity (s : State) : Except ErrCode Capacity :=
  match s.checkedVersion with
  | .ok v => .ok (capacity v s.level)
  | .error e => .error e

/-- RS_GEN's count (R93, R143): E of CONFIG, or ARG1 (at most 63) in explicit mode, which reads no CONFIG. -/
def State.genCount (s : State) (x : Bool) : Except ErrCode Nat :=
  if x then
    if s.countArg1 > 63 then .error .badArgument else .ok s.countArg1
  else
    match s.checkedCapacity with
    | .ok cap => .ok cap.ecCount
    | .error e => .error e

/-- RS_ENC's n_data and ec_count (R93, R144): D and E of CONFIG, or ARG0 (at most 64) and ARG1 (at most 63) in explicit
mode, which reads no CONFIG. -/
def State.encCounts (s : State) (x : Bool) : Except ErrCode (Nat × Nat) :=
  if x then
    if s.countArg0 > 64 || s.countArg1 > 63 then .error .badArgument else .ok (s.countArg0, s.countArg1)
  else
    match s.checkedCapacity with
    | .ok cap => .ok (cap.dataCount, cap.ecCount)
    | .error e => .error e

/-- The version of a matrix in state BUILT; else the state is invalid (R222, R300). -/
def State.builtVersion (s : State) : Except ErrCode Version :=
  match s.mx with
  | .built v => .ok v
  | .empty => .error .invalidState
  | .placed _ => .error .invalidState
  | .masked _ => .error .invalidState

/-- The version of a matrix in state PLACED; else the state is invalid (R249, R250, R300). -/
def State.placedVersion (s : State) : Except ErrCode Version :=
  match s.mx with
  | .placed v => .ok v
  | .empty => .error .invalidState
  | .built _ => .error .invalidState
  | .masked _ => .error .invalidState

/-- The first `n` bytes of TEXT, DATA or EC as a command reads them; `none` when one holds no value (R69, R312). -/
def State.readBuffer (s : State) (b : BufName) (n : Nat) : Option (List Byte) := s.mem.readAll b.windowBase n

/-- Write a list to the front of DATA, EC or GEN, as a command does; the bytes past it stay (R69, R353). -/
def State.writeBuffer (s : State) (b : BufName) (vs : List Byte) : State :=
  { s with mem := s.mem.setAll b.windowBase vs }

end Sys2Proof.Machine
end

