-- ==== Sys2Proof/Machine/Bitstream.lean ====
section
/-! DEFINITION. The Bitstream Builder: the data codewords of a payload (R160 to R162) and BS_BUILD (R163). -/

namespace Sys2Proof.Machine

/-- The bits of a codeword, most significant first (R162, R220). -/
def bits8 (v : Byte) : List Bool :=
  [v.getLsbD 7, v.getLsbD 6, v.getLsbD 5, v.getLsbD 4, v.getLsbD 3, v.getLsbD 2, v.getLsbD 1, v.getLsbD 0]

/-- The bits of a codeword sequence. -/
def bitsOf (vs : List Byte) : List Bool := vs.flatMap bits8

/-- Eight bits as a codeword, the first as bit 7 (R162). -/
def byteOfBits (b7 b6 b5 b4 b3 b2 b1 b0 : Bool) : Byte :=
  BitVec.ofBool b7 ++ BitVec.ofBool b6 ++ BitVec.ofBool b5 ++ BitVec.ofBool b4 ++ BitVec.ofBool b3 ++ BitVec.ofBool b2 ++
    BitVec.ofBool b1 ++ BitVec.ofBool b0

/-- Bits grouped into codewords (R162); the padding has made their number a multiple of 8. -/
def groupBits : List Bool → List Byte
  | b7 :: b6 :: b5 :: b4 :: b3 :: b2 :: b1 :: b0 :: rest => byteOfBits b7 b6 b5 b4 b3 b2 b1 b0 :: groupBits rest
  | _ => []

/-- `n` pad codewords, 0xEC and 0x11 in turn, `first` saying that the next is 0xEC (R162). -/
def padCodewords (first : Bool) : Nat → List Byte
  | 0 => []
  | n + 1 => (if first then 0xEC#8 else 0x11#8) :: padCodewords (!first) n

/-- Mode indicator, character count and payload (R160, R161). -/
def headerAndPayload (p : List Byte) : List Bool :=
  [false, true, false, false] ++ bits8 (BitVec.ofNat 8 p.length) ++ bitsOf p

/-- The terminator (R162): 4 zero bits, or the space that is left. -/
def terminator (used capacityBits : Nat) : List Bool := List.replicate (min 4 (capacityBits - used)) false

/-- Zero bits to the next codeword boundary (R162). -/
def boundaryPad (len : Nat) : List Bool := List.replicate ((8 - len % 8) % 8) false

/-- The data codeword list of a payload that fits `d` codewords (R162). -/
def bsbuild (p : List Byte) (d : Nat) : List Byte :=
  let bits := headerAndPayload p
  let bits := bits ++ terminator bits.length (8 * d)
  let bits := bits ++ boundaryPad bits.length
  let cw := groupBits bits
  cw ++ padCodewords true (d - cw.length)

/-- BS_BUILD (R163): CAPACITY_EXCEEDED when 12 + 8 n > 8 D, before TEXT is read. -/
def bodyBsBuild (s : State) : Body :=
  match s.checkedCapacity with
  | .error e => .error e 0x06#8
  | .ok cap =>
    if 12 + 8 * s.countArg0 > 8 * cap.dataCount then .error .capacityExceeded 0x06#8
    else
      match s.readBuffer .text s.countArg0 with
      | none => .uninit
      | some p =>
        .ok { s.writeBuffer .data (bsbuild p cap.dataCount) with
          dlen := BitVec.ofNat 8 cap.dataCount
          bitcnt := BitVec.ofNat 16 (12 + 8 * s.countArg0) }

def execBsBuild (s : State) : Host.Outcome State Fault Refusal := runStages [bodyBsBuild] s

end Sys2Proof.Machine
end

