-- ==== Sys2Proof/Machine/Matrix.lean ====
section
/-! DEFINITION. The Matrix Constructor: the function patterns (R211 to R217), the zig-zag order (R219), the bit supply
(R220), placement (R221), MX_BUILD (R218) and MX_PLACE (R222). -/

namespace Sys2Proof.Machine

/-! ### Function patterns: each answers the cell it places at (r, c), or nothing -/

/-- A 7 by 7 finder pattern with top-left corner (r0, c0) (R211). -/
def finderAt (r0 c0 r c : Nat) : Option Cell :=
  if r0 ≤ r && r < r0 + 7 && c0 ≤ c && c < c0 + 7 then
    let i := r - r0
    let j := c - c0
    some (.reserved (i == 0 || i == 6 || j == 0 || j == 6 || (2 ≤ i && i ≤ 4 && 2 ≤ j && j ≤ 4)))
  else none

/-- The three finder patterns (R211). -/
def finders (n r c : Nat) : Option Cell :=
  (finderAt 0 0 r c).or ((finderAt 0 (n - 7) r c).or (finderAt (n - 7) 0 r c))

/-- The separators (R212). -/
def separators (n r c : Nat) : Option Cell :=
  if (r == 7 && c ≤ 7) || (r ≤ 7 && c == 7) ||
      (r == 7 && n - 8 ≤ c) || (r ≤ 7 && c == n - 8) ||
      (r == n - 8 && c ≤ 7) || (n - 8 ≤ r && c == 7) then
    some (.reserved false)
  else none

/-- The timing patterns (R213). -/
def timing (n r c : Nat) : Option Cell :=
  if r == 6 && 8 ≤ c && c ≤ n - 9 then some (.reserved (c % 2 == 0))
  else if c == 6 && 8 ≤ r && r ≤ n - 9 then some (.reserved (r % 2 == 0))
  else none

/-- |a − b|. -/
def distance (a b : Nat) : Nat := (a - b) + (b - a)

/-- The alignment pattern of version 2 (R214). -/
def alignment (v : Version) (r c : Nat) : Option Cell :=
  match v with
  | .v1 => none
  | .v2 =>
    let k := max (distance r 18) (distance c 18)
    if k ≤ 2 then some (.reserved (k == 0 || k == 2)) else none

/-- The dark module (R215). -/
def darkModule (n r c : Nat) : Option Cell := if r == n - 8 && c == 8 then some (.reserved true) else none

/-- F1(i) (R216): the cell of format bit `i` in the first copy. -/
def formatCell1 (i : Nat) : Nat × Nat :=
  if i ≤ 5 then (i, 8) else if i = 6 then (7, 8) else if i = 7 then (8, 8) else if i = 8 then (8, 7) else (8, 14 - i)

/-- F2(i) (R216): the cell of format bit `i` in the second copy, for size `n`. -/
def formatCell2 (n i : Nat) : Nat × Nat := if i ≤ 7 then (8, n - 1 - i) else (n - 15 + i, 8)

/-- The format bit a cell shows, if it is one of the 30 format cells (R216). -/
def formatBitAt (n r c : Nat) : Option Nat :=
  (List.range 15).find? (fun i => formatCell1 i == (r, c) || formatCell2 n i == (r, c))

/-- The format area (R216): Reserved(light) after MX_BUILD. -/
def formatArea (n r c : Nat) : Option Cell :=
  match formatBitAt n r c with
  | some _ => some (.reserved false)
  | none => none

/-- The cell MX_BUILD leaves at (r, c) (R217). The patterns are disjoint, so their order does not matter. -/
def builtCell (v : Version) (r c : Nat) : Cell :=
  ((finders v.size r c).or ((separators v.size r c).or ((timing v.size r c).or ((alignment v r c).or
    ((darkModule v.size r c).or (formatArea v.size r c)))))).getD .unset

/-- The N by N part of mxbuild(V) (R217). -/
def mxbuild (v : Version) : Grid :=
  (List.range v.size).map (fun r => (List.range v.size).map (fun c => builtCell v r c))

/-- All 625 cells of mxbuild(V): those past N² are Unset (R45, R217). -/
def mxbuildCells (v : Version) : List Cell := (mxbuild v).flatten ++ List.replicate (625 - v.size * v.size) .unset

/-! ### Data placement -/

/-- The right columns of the pairs (R219): from `right` down in steps of 2, 6 replaced by 5; `fuel` bounds the loop. -/
def rightColumns : Nat → Nat → List Nat
  | 0, _ => []
  | fuel + 1, right =>
    if right = 0 then []
    else
      let right := if right = 6 then 5 else right
      right :: rightColumns fuel (right - 2)

/-- The cells of one column pair in order (R219): upward or downward, the right cell of a row first. -/
def pairCells (n right : Nat) : List (Nat × Nat) :=
  let upward := (right + 1) / 2 % 2 == 0
  (List.range n).flatMap (fun vert =>
    let r := if upward then n - 1 - vert else vert
    [(r, right), (r, right - 1)])

/-- The whole zig-zag path, Reserved cells and all. -/
def zigzag (n : Nat) : List (Nat × Nat) := (rightColumns n (n - 1)).flatMap (pairCells n)

/-- M(r, c) is a cell that is not Reserved (R219). -/
def Grid.isFree (g : Grid) (p : Nat × Nat) : Bool :=
  match g.cell? p.1 p.2 with
  | some cell => !cell.isReserved
  | none => false

/-- order(N, M) (R219). -/
def placementOrder (n : Nat) (g : Grid) : List (Nat × Nat) := (zigzag n).filter g.isFree

/-- supply(V, L) of the data and EC codewords read (R220). -/
def bitSupply (v : Version) (dataCw ecCw : List Byte) : List Bool :=
  bitsOf dataCw ++ bitsOf ecCw ++ List.replicate (remainderBits v) false

/-- mxplace(M, s) (R221): the k-th bit of `bits` goes to the k-th cell of `order` as Data. -/
def mxplace (g : Grid) (order : List (Nat × Nat)) (bits : List Bool) : Grid :=
  (order.zip bits).foldl (fun g pb => g.setCell pb.1.1 pb.1.2 (.data pb.2)) g

/-- The supply's length (R220, R222). -/
def supplyLength (v : Version) : Nat := 8 * totalCodewords v + remainderBits v

/-- MX_BUILD (R218): allowed in every MXSTATE. -/
def bodyMxBuild (s : State) : Body :=
  match s.checkedVersion with
  | .error e => .error e 0x07#8
  | .ok v => .ok { s with matrix := overlay (mxbuildCells v) s.matrix, mx := .built v }

/-- MX_PLACE (R222): the layout is checked before DATA and EC are read and before any cell is written. -/
def bodyMxPlace (s : State) : Body :=
  match s.checkedVersion with
  | .error e => .error e 0x08#8
  | .ok v =>
    match s.builtVersion with
    | .error e => .error e 0x08#8
    | .ok mv =>
      match s.readGrid mv with
      | none => .uninit
      | some g =>
        let order := placementOrder mv.size g
        if supplyLength v < order.length then .error .layoutOverflow 0x08#8
        else if supplyLength v > order.length then .error .layoutUnderflow 0x08#8
        else
          match s.readBuffer .data (capacity v s.level).dataCount, s.readBuffer .ec (capacity v s.level).ecCount with
          | some d, some e => .ok { s.writeGrid (mxplace g order (bitSupply v d e)) with mx := .placed mv }
          | none, _ => .uninit
          | some _, none => .uninit

def execMxBuild (s : State) : Host.Outcome State Fault Refusal := runStages [bodyMxBuild] s

def execMxPlace (s : State) : Host.Outcome State Fault Refusal := runStages [bodyMxPlace] s

end Sys2Proof.Machine
end

