-- ==== Sys2Proof/Machine/Mask.lean ====
section
/-! DEFINITION. The Mask Evaluator and Selector: the predicates (R240, R241), the penalty rules (R242 to R247), the
format word (R248), MASK_SCORE (R249) and MASK_SELECT (R250). -/

namespace Sys2Proof.Machine

/-- The mask predicate P_m(i, j), row i, column j (R240). -/
def maskPredicate (m : BitVec 3) (i j : Nat) : Bool :=
  match m.toNat with
  | 0 => (i + j) % 2 == 0
  | 1 => i % 2 == 0
  | 2 => j % 3 == 0
  | 3 => (i + j) % 3 == 0
  | 4 => (i / 2 + j / 3) % 2 == 0
  | 5 => (i * j) % 2 + (i * j) % 3 == 0
  | 6 => ((i * j) % 2 + (i * j) % 3) % 2 == 0
  | _ => ((i + j) % 2 + (i * j) % 3) % 2 == 0

/-- A cell under a mask bit (R241): only Data cells change. -/
def Cell.maskWith (flip : Bool) : Cell → Cell
  | .data b => .data (b ^^ flip)
  | .reserved b => .reserved b
  | .unset => .unset

/-- applyMask(M, m) (R241). -/
def applyMask (g : Grid) (m : BitVec 3) : Grid := g.mapCells (fun r c cell => cell.maskWith (maskPredicate m r c))

/-! ### Penalty rules on the picture B (R242): rows of DARK bits -/

/-- B (R242). -/
def picture (g : Grid) : List (List Bool) := g.map (fun row => row.map Cell.dark)

/-- The columns of a square picture (R242). -/
def columnsOf (rows : List (List Bool)) : List (List Bool) :=
  (List.range rows.length).map (fun c => rows.map (fun row => row.getD c false))

/-- The 2 N lines, rows first (R242). -/
def linesOf (rows : List (List Bool)) : List (List Bool) := rows ++ columnsOf rows

/-- The score of a maximal run (R243). -/
def runPoints (k : Nat) : Nat := if 5 ≤ k then 3 + (k - 5) else 0

/-- The points of a line whose current run is `run` modules of colour `b` (R243). -/
def runsFrom (b : Bool) (run : Nat) : List Bool → Nat
  | [] => runPoints run
  | x :: xs => if x == b then runsFrom b (run + 1) xs else runPoints run + runsFrom x 1 xs

/-- Rule (a) on one line (R243). -/
def lineRuns : List Bool → Nat
  | [] => 0
  | b :: bs => runsFrom b 1 bs

/-- Rule (a) (R243). -/
def pen1Of (rows : List (List Bool)) : Nat := ((linesOf rows).map lineRuns).sum

/-- The 2 by 2 blocks of one colour between two adjacent rows (R244). -/
def blocksBetween : List Bool → List Bool → Nat
  | a :: a' :: as, b :: b' :: bs =>
    (if a == a' && a == b && a == b' then 1 else 0) + blocksBetween (a' :: as) (b' :: bs)
  | _, _ => 0

/-- The blocks of all adjacent row pairs (R244). -/
def blocksOf : List (List Bool) → Nat
  | r :: r' :: rest => blocksBetween r r' + blocksOf (r' :: rest)
  | _ => 0

/-- Rule (b) (R244). -/
def pen2Of (rows : List (List Bool)) : Nat := 3 * blocksOf rows

/-- The sequence A of R245. -/
def finderSequence : List Bool := [true, false, true, true, true, false, true, false, false, false, false]

/-- How often A or its reverse starts in a line with all 11 modules inside it (R245). -/
def lineFinders : List Bool → Nat
  | [] => 0
  | b :: bs =>
    (if finderSequence.isPrefixOf (b :: bs) then 1 else 0) +
      (if finderSequence.reverse.isPrefixOf (b :: bs) then 1 else 0) + lineFinders bs

/-- Rule (c) (R245). -/
def pen3Of (rows : List (List Bool)) : Nat := 40 * ((linesOf rows).map lineFinders).sum

/-- The dark modules (R246). -/
def darkCount (rows : List (List Bool)) : Nat := (rows.map (fun row => row.count true)).sum

/-- Rule (d) (R246) of `dk` dark modules among `t`. -/
def balancePoints (dk t : Nat) : Nat := 10 * (distance (100 * dk) (50 * t) / (5 * t))

/-- Rule (d) (R246). -/
def pen4Of (rows : List (List Bool)) : Nat := balancePoints (darkCount rows) (rows.length * rows.length)

/-- The four components of a score (R243 to R246). -/
structure Penalty where
  p1 : Nat
  p2 : Nat
  p3 : Nat
  p4 : Nat
  deriving DecidableEq, Repr

/-- The components of a matrix's score (R242 to R246). -/
def penaltyOf (g : Grid) : Penalty :=
  let rows := picture g
  ⟨pen1Of rows, pen2Of rows, pen3Of rows, pen4Of rows⟩

/-- The score (R247). -/
def Penalty.total (p : Penalty) : Nat := p.p1 + p.p2 + p.p3 + p.p4

/-- The score of mask m's candidate (R249, R250). -/
def candidatePenalty (g : Grid) (m : BitVec 3) : Penalty := penaltyOf (applyMask g m)

/-! ### Selection and the format word -/

/-- The eight masks in ascending order (R250). -/
def allMasks : List (BitVec 3) := [0#3, 1#3, 2#3, 3#3, 4#3, 5#3, 6#3, 7#3]

/-- The first mask whose score is at most every score (R250): `scores` pairs each mask with its score. -/
def leastMask (scores : List (BitVec 3 × Nat)) : BitVec 3 :=
  match scores.find? (fun p => scores.all (fun q => p.2 ≤ q.2)) with
  | some p => p.1
  | none => 0#3

/-- writeFormat(M, f) (R248): the 30 format cells show the bits of `f`. -/
def writeFormat (n : Nat) (g : Grid) (f : BitVec 15) : Grid :=
  g.mapCells (fun r c old =>
    match formatBitAt n r c with
    | some i => .reserved (f.getLsbD i)
    | none => old)

/-- SCORE and PEN1 .. PEN4 of one candidate (R249, R250). -/
def State.writePenalty (s : State) (p : Penalty) : State :=
  { s with
    pen1 := BitVec.ofNat 32 p.p1
    pen2 := BitVec.ofNat 32 p.p2
    pen3 := BitVec.ofNat 32 p.p3
    pen4 := BitVec.ofNat 32 p.p4
    score := BitVec.ofNat 32 p.total }

/-- MASK_SCORE (R249): it reads no CONFIG and writes no cell. -/
def bodyMaskScore (m : BitVec 3) (s : State) : Body :=
  match s.placedVersion with
  | .error e => .error e 0x09#8
  | .ok mv =>
    match s.readGrid mv with
    | none => .uninit
    | some g => .ok (s.writePenalty (candidatePenalty g m))

/-- The writes of MASK_SELECT (R250) on the PLACED matrix `g` of version `mv`. -/
def State.select (s : State) (mv : Version) (g : Grid) : State :=
  let pens := allMasks.map (fun m => (m, candidatePenalty g m))
  let best := leastMask (pens.map (fun p => (p.1, p.2.total)))
  let scores : Vector Word 8 := Vector.ofFn (fun k => BitVec.ofNat 32 ((pens.map (fun p => p.2.total)).getD k.val 0))
  let bestPen := ((pens.map (fun p => p.2)).getD best.toNat ⟨0, 0, 0, 0⟩)
  { (s.writeGrid (writeFormat mv.size (applyMask g best) (formatWord s.level best))).writePenalty bestPen with
    scores := scores
    mask := best
    mx := .masked mv }

/-- MASK_SELECT (R250). -/
def bodyMaskSelect (s : State) : Body :=
  match s.checkedVersion with
  | .error e => .error e 0x0A#8
  | .ok _ =>
    match s.placedVersion with
    | .error e => .error e 0x0A#8
    | .ok mv =>
      match s.readGrid mv with
      | none => .uninit
      | some g => .ok (s.select mv g)

def execMaskScore (m : BitVec 3) (s : State) : Host.Outcome State Fault Refusal := runStages [bodyMaskScore m] s

def execMaskSelect (s : State) : Host.Outcome State Fault Refusal := runStages [bodyMaskSelect] s

end Sys2Proof.Machine
end

