-- ==== Sys2Proof/Machine/Gf.lean ====
section
/-! DEFINITION. The Galois Field Engine: the field product (R121) and GF_MUL, GF_EXP, GF_LOG (R122 to R124). -/

namespace Sys2Proof.Machine

/-- The field product (R121): 0 when either operand is 0, and LOG[0] is never read. -/
def gmul (a b : Byte) : Byte :=
  match gfLog? a, gfLog? b with
  | some la, some lb => gfExp (BitVec.ofNat 8 ((la.toNat + lb.toNat) % 255))
  | none, _ => 0#8
  | some _, none => 0#8

/-- GF_MUL (R122). -/
def bodyGfMul (s : State) : Body := .ok { s with result := (gmul s.fieldArg0 s.fieldArg1).setWidth 32 }

/-- GF_EXP (R123). -/
def bodyGfExp (s : State) : Body := .ok { s with result := (gfExp s.fieldArg0).setWidth 32 }

/-- GF_LOG (R124): DOMAIN on 0. -/
def bodyGfLog (s : State) : Body :=
  match gfLog? s.fieldArg0 with
  | none => .error .domain 0x03#8
  | some p => .ok { s with result := p.setWidth 32 }

def execGfMul (s : State) : Host.Outcome State Fault Refusal := runStages [bodyGfMul] s

def execGfExp (s : State) : Host.Outcome State Fault Refusal := runStages [bodyGfExp] s

def execGfLog (s : State) : Host.Outcome State Fault Refusal := runStages [bodyGfLog] s

end Sys2Proof.Machine
end

