-- ==== Sys2Proof/Machine/Rs.lean ====
section
/-! DEFINITION. The Reed-Solomon Encoder: the generator polynomial (R141), the remainder (R142), RS_GEN (R143) and
RS_ENC (R144). Coefficients stand highest degree first (R140). -/

namespace Sys2Proof.Machine

/-- The product of `g` and x + `a` (R141): `g` times x, plus `g` times `a` one place later. -/
def mulLinear (g : List Byte) (a : Byte) : List Byte :=
  List.zipWith (· ^^^ ·) (g ++ [0x00#8]) (0x00#8 :: g.map (fun c => gmul c a))

/-- g_n, the product of x + α^i for i = 0 .. n−1 (R141). -/
def genpoly : Nat → List Byte
  | 0 => [0x01#8]
  | n + 1 => mulLinear (genpoly n) (gfExp (BitVec.ofNat 8 n))

/-- One codeword of the long division (R142): `gt` is the generator without its leading coefficient. An empty remainder
(n = 0) stays empty. -/
def divStep (gt : List Byte) (rem : List Byte) (d : Byte) : List Byte :=
  match rem with
  | [] => []
  | r :: rs => List.zipWith (· ^^^ ·) (rs ++ [0x00#8]) (gt.map (fun c => gmul c (d ^^^ r)))

/-- The remainder of D(x) x^n by g_n, n coefficients (R142). -/
def rsrem (d : List Byte) (n : Nat) : List Byte :=
  d.foldl (divStep (genpoly n).tail) (List.replicate n 0x00#8)

/-- RS_GEN (R143). -/
def bodyRsGen (x : Bool) (s : State) : Body :=
  match s.genCount x with
  | .error e => .error e 0x04#8
  | .ok n => .ok { s.writeBuffer .gen (genpoly n) with result := BitVec.ofNat 32 (n + 1) }

/-- RS_ENC (R144). -/
def bodyRsEnc (x : Bool) (s : State) : Body :=
  match s.encCounts x with
  | .error e => .error e 0x05#8
  | .ok (nData, n) =>
    match s.readBuffer .data nData with
    | none => .uninit
    | some d => .ok { s.writeBuffer .ec (rsrem d n) with eclen := BitVec.ofNat 8 n }

def execRsGen (x : Bool) (s : State) : Host.Outcome State Fault Refusal := runStages [bodyRsGen x] s

def execRsEnc (x : Bool) (s : State) : Host.Outcome State Fault Refusal := runStages [bodyRsEnc x] s

end Sys2Proof.Machine
end

