-- ==== Sys2Proof/Machine/Control.lean ====
section
/-! DEFINITION. NOP (R270) and ENCODE (R271, R272). -/

namespace Sys2Proof.Machine

/-- NOP (R270). -/
def execNop (s : State) : Host.Outcome State Fault Refusal := runStages [] s

/-- ENCODE (R272): the five stages of R271 in order, RS_ENC in table mode. -/
def execEncode (s : State) : Host.Outcome State Fault Refusal :=
  runStages [bodyBsBuild, bodyRsEnc false, bodyMxBuild, bodyMxPlace, bodyMaskSelect] s

end Sys2Proof.Machine
end

