-- ==== Sys2Proof/Machine/Tables.lean ====
section
/-! DEFINITION. The table commands TBL_CAP (R185), TBL_GEOM (R186) and TBL_FMT (R187). -/

namespace Sys2Proof.Machine

/-- RESULT of TBL_CAP (R185): B, E, D, T from the top byte down. -/
def capacityWord (cap : Capacity) : Word :=
  (BitVec.ofNat 8 cap.blocks ++ BitVec.ofNat 8 cap.ecCount ++ BitVec.ofNat 8 cap.dataCount ++
    BitVec.ofNat 8 cap.total : BitVec 32)

/-- RESULT of TBL_GEOM (R186): N, AC << 8, REM << 16, DATACELLS << 20. -/
def geometryWord (v : Version) : Word :=
  BitVec.ofNat 32 v.size ||| (BitVec.ofNat 32 (alignmentCentre v) <<< 8) |||
    (BitVec.ofNat 32 (remainderBits v) <<< 16) ||| (BitVec.ofNat 32 (dataCells v) <<< 20)

/-- TBL_CAP (R185). -/
def bodyTblCap (s : State) : Body :=
  match s.checkedCapacity with
  | .error e => .error e 0x0B#8
  | .ok cap => .ok { s with result := capacityWord cap }

/-- TBL_GEOM (R186). -/
def bodyTblGeom (s : State) : Body :=
  match s.checkedVersion with
  | .error e => .error e 0x0C#8
  | .ok v => .ok { s with result := geometryWord v }

/-- TBL_FMT (R187): VERSION is checked though the word does not depend on it (C7). -/
def bodyTblFmt (m : BitVec 3) (s : State) : Body :=
  match s.checkedVersion with
  | .error e => .error e 0x0D#8
  | .ok _ => .ok { s with result := (formatWord s.level m).setWidth 32 }

def execTblCap (s : State) : Host.Outcome State Fault Refusal := runStages [bodyTblCap] s

def execTblGeom (s : State) : Host.Outcome State Fault Refusal := runStages [bodyTblGeom] s

def execTblFmt (m : BitVec 3) (s : State) : Host.Outcome State Fault Refusal := runStages [bodyTblFmt m] s

end Sys2Proof.Machine
end

