-- ==== Sys2Proof/Machine/Dispatch.lean ====
section
/-! DEFINITION. One arm per command (R94). -/

namespace Sys2Proof.Machine

def exec (i : Instr) (s : State) : Host.Outcome State Fault Refusal :=
  match i with
  | .nop => Sys2Proof.Machine.execNop s
  | .gfMul => Sys2Proof.Machine.execGfMul s
  | .gfExp => Sys2Proof.Machine.execGfExp s
  | .gfLog => Sys2Proof.Machine.execGfLog s
  | .rsGen x => Sys2Proof.Machine.execRsGen x s
  | .rsEnc x => Sys2Proof.Machine.execRsEnc x s
  | .bsBuild => Sys2Proof.Machine.execBsBuild s
  | .mxBuild => Sys2Proof.Machine.execMxBuild s
  | .mxPlace => Sys2Proof.Machine.execMxPlace s
  | .maskScore m => Sys2Proof.Machine.execMaskScore m s
  | .maskSelect => Sys2Proof.Machine.execMaskSelect s
  | .tblCap => Sys2Proof.Machine.execTblCap s
  | .tblGeom => Sys2Proof.Machine.execTblGeom s
  | .tblFmt m => Sys2Proof.Machine.execTblFmt m s
  | .encode => Sys2Proof.Machine.execEncode s

end Sys2Proof.Machine
end

