-- ==== Sys2Proof/Machine/Step.lean ====
section
/-! DEFINITION. One step of the machine: a command step of the core, or one turn of the host (R70, R301, R360). -/

namespace Sys2Proof.Machine

/-- The core's atomic command step (R301): decode CMDL (R95), then run the command or raise ILLEGAL_COMMAND. -/
def coreStep (s : State) : Host.Outcome State Fault Refusal :=
  match decode s.cmdl with
  | some i => exec i s
  | none => .next s.raiseIllegal

/-- One step. A pending command whose wait is over is executed; else the host has a turn, and the wait is one turn
shorter (log 4). Every command step so falls between two host accesses (R68, R70). -/
def step (s : State) : Host.Outcome State Fault Refusal :=
  if s.pending then
    match s.delay with
    | 0 => coreStep s
    | n + 1 => State.hostTurn { s with delay := n }
  else s.hostTurn

/-- The state in which the very next step executes the word: an accepted CMD write of it (R301) whose wait is over. The
block fetches nothing (R74), so this is all it takes (log 6). -/
def State.withFetchWord (s : State) (nbits w : Nat) : State :=
  { s.latch (BitVec.ofNat 32 (w % 2 ^ nbits)) with delay := 0 }

end Sys2Proof.Machine
end

