-- ==== Sys2Proof/Machine/HostAsm.lean ====
section
/-! DEFINITION. The host assembly: what each statement of R99 and each pseudo-instruction of R100 stands for, and
loading a program into the host agent. -/

namespace Sys2Proof.Machine

/-- Why the assembler refuses a program. -/
inductive AsmError where
  /-- The statement fails a check of R99. -/
  | illFormed (st : AsmStmt)
  /-- A branch names a label that stands nowhere. -/
  | undefinedLabel (l : Nat)
  deriving DecidableEq, Repr

/-- The opcode of a mnemonic (R94). -/
def Mnemonic.opcode : Mnemonic → Nat
  | .NOP => 0x00
  | .GF_MUL => 0x01
  | .GF_EXP => 0x02
  | .GF_LOG => 0x03
  | .RS_GEN => 0x04
  | .RS_ENC => 0x05
  | .BS_BUILD => 0x06
  | .MX_BUILD => 0x07
  | .MX_PLACE => 0x08
  | .MASK_SCORE => 0x09
  | .MASK_SELECT => 0x0A
  | .TBL_CAP => 0x0B
  | .TBL_GEOM => 0x0C
  | .TBL_FMT => 0x0D
  | .ENCODE => 0x0E

/-- The word of `MNEMONIC [m=k] [x]` (R99): OPCODE + (k << 8) + (x ? 1 << 11 : 0). -/
def commandWord (mn : Mnemonic) (m : Option Nat) (x : Bool) : Word :=
  BitVec.ofNat 32 (mn.opcode + m.getD 0 * 256 + (if x then 2048 else 0))

/-- `wr REG, imm` (R99). -/
def stmtWr (r : RegName) (imm : Word) : HostStmt := .access (.write (BitVec.ofNat 12 r.offset) .word imm)

/-- `rd REG` (R99). -/
def stmtRd (r : RegName) : HostStmt := .access (.read (BitVec.ofNat 12 r.offset) .word)

/-- A write of BUF[i] (R99: `wrb`, `wrw`). -/
def stmtWrBuf (b : BufName) (i : Nat) (w : Width) (imm : Word) : HostStmt :=
  .access (.write (BitVec.ofNat 12 (b.windowBase + i)) w imm)

/-- A read of BUF[i] (R99: `rdb`, `rdw`). -/
def stmtRdBuf (b : BufName) (i : Nat) (w : Width) : HostStmt :=
  .access (.read (BitVec.ofNat 12 (b.windowBase + i)) w)

/-- `wrb` of each byte of a string in order (R100: `wrs`). -/
def stmtsWrs (b : BufName) (i : Nat) : List Byte → List HostStmt
  | [] => []
  | v :: vs => stmtWrBuf b i .byte (v.setWidth 32) :: stmtsWrs b (i + 1) vs

/-- How many host statements an assembly statement stands for. -/
def AsmStmt.size : AsmStmt → Nat
  | .label _ => 0
  | .wait => 2
  | .run _ _ _ => 3
  | .wrs _ bytes => bytes.length
  | .wr _ _ => 1
  | .rd _ => 1
  | .wrb _ _ _ => 1
  | .rdb _ _ => 1
  | .wrw _ _ _ => 1
  | .rdw _ _ => 1
  | .command _ _ _ => 1
  | .bnz _ => 1
  | .bz _ => 1
  | .cfg _ _ => 1
  | .clr => 1

/-- The labels of a program with the numbers of the statements they stand before. -/
def labelsFrom (pos : Nat) : List AsmStmt → List (Nat × Nat)
  | [] => []
  | .label l :: rest => (l, pos) :: labelsFrom pos rest
  | st :: rest => labelsFrom (pos + st.size) rest

/-- The host statements of a well-formed assembly statement that stands at statement number `pos` (R99, R100). -/
def AsmStmt.expand (labels : List (Nat × Nat)) (pos : Nat) : AsmStmt → Except AsmError (List HostStmt)
  | .label _ => .ok []
  | .wr r imm => .ok [stmtWr r imm]
  | .rd r => .ok [stmtRd r]
  | .wrb b i imm => .ok [stmtWrBuf b i .byte imm]
  | .rdb b i => .ok [stmtRdBuf b i .byte]
  | .wrw b i imm => .ok [stmtWrBuf b i .word imm]
  | .rdw b i => .ok [stmtRdBuf b i .word]
  | .command mn m x => .ok [stmtWr .cmd (commandWord mn m x)]
  | .bnz l =>
    match labels.lookup l with
    | some t => .ok [.bnz t]
    | none => .error (.undefinedLabel l)
  | .bz l =>
    match labels.lookup l with
    | some t => .ok [.bz t]
    | none => .error (.undefinedLabel l)
  | .cfg v lvl => .ok [stmtWr .config ((lvl.code.setWidth 32 <<< 2) + v)]
  | .wait => .ok [stmtRd .status, .bnz pos]
  | .run mn m x => .ok [stmtWr .cmd (commandWord mn m x), stmtRd .status, .bnz (pos + 1)]
  | .wrs b bytes => .ok (stmtsWrs b 0 bytes)
  | .clr => .ok [stmtWr .status 0xE#32]

/-- Assemble the statements that stand from `pos` on. -/
def assembleFrom (labels : List (Nat × Nat)) (pos : Nat) : List AsmStmt → Except AsmError (List HostStmt)
  | [] => .ok []
  | st :: rest =>
    if st.wellFormed then
      match st.expand labels pos, assembleFrom labels (pos + st.size) rest with
      | .ok now, .ok later => .ok (now ++ later)
      | .error e, _ => .error e
      | .ok _, .error e => .error e
    else .error (.illFormed st)

/-- Assemble a host program; a statement that fails a check of R99 is refused by name. -/
def assemble (prog : List AsmStmt) : Except AsmError (List HostStmt) := assembleFrom (labelsFrom 0 prog) 0 prog

/-- Load a program into the host agent, from outside the machine (log 6). -/
def State.loadHost (s : State) (prog : List HostStmt) : State := { s with host := { s.host with prog := prog, pc := 0 } }

end Sys2Proof.Machine
end

