-- ==== Sys2Proof/Safety.lean ====
section
/-! DEFINITION. The terms claims use: a safe step, the end of a run and what is observed there (D48), and the invariant
that every step keeps. -/

namespace Sys2Proof.Machine

/-- The step neither faults nor is refused (R311). -/
def State.StepsSafely (s : State) : Prop := ∃ t, step s = .next t

/-- A run is over (D48): the host has issued its last access and STATUS.BUSY is 0. -/
def State.runEnded (s : State) : Bool := s.host.prog.length ≤ s.host.pc && !s.pending

/-- What is observed of a run (D48): the register file and the buffer contents. -/
structure Observation where
  registers : List Word
  bytes : List (Option Byte)
  deriving DecidableEq, Repr

/-- The observation of a state (D48): the 28 registers, then TEXT to GEN, then MATRIX. -/
def State.observe (s : State) : Observation where
  registers := allRegs.map s.readReg
  bytes := (List.range 0x1C0).map (fun k => s.byteAt (0x100 + k)) ++ (List.range 640).map (fun k => s.byteAt (0x400 + k))

/-- A cell of a PLACED or MASKED matrix is as the built matrix prescribes: a Data cell where MX_BUILD left Unset, the same
Reserved cell elsewhere; once MASKED, a format cell is Reserved with any bit (R223, R251). -/
def cellOk (v : Version) (masked : Bool) (r c : Nat) (x : Option Cell) : Bool :=
  match builtCell v r c, x with
  | .unset, some (.data _) => true
  | .reserved b, some (.reserved b') => b' == b || (masked && (formatBitAt v.size r c).isSome)
  | _, _ => false

/-- The cells of a matrix that has left EMPTY, by its state (R45, R217, R223, R248, R251). -/
def State.CellsOk (s : State) : Prop :=
  match s.mx with
  | .empty => True
  | .built v => s.matrix.toList = (mxbuildCells v).map some
  | .placed v =>
    (∀ r c, r < v.size → c < v.size → cellOk v false r c (s.matrix.toList[r * v.size + c]?.join) = true) ∧
    (∀ k, v.size * v.size ≤ k → k < 625 → s.matrix.toList[k]? = some (some .unset))
  | .masked v =>
    (∀ r c, r < v.size → c < v.size → cellOk v true r c (s.matrix.toList[r * v.size + c]?.join) = true) ∧
    (∀ k, v.size * v.size ≤ k → k < 625 → s.matrix.toList[k]? = some (some .unset)) ∧
    (∃ l : EccLevel, ∀ r c i, r < v.size → c < v.size → formatBitAt v.size r c = some i →
      s.matrix.toList[r * v.size + c]? = some (some (.reserved ((formatWord l s.mask).getLsbD i))))

/-- The invariant of the machine: it holds after reset and every step keeps it. -/
structure State.Inv (s : State) : Prop where
  /-- The byte memory is canonical (log 1). -/
  memoryCanonical : s.mem.wf
  /-- Acceptance cleared DONE and ERR, and only a completion sets them (R23, R301 to R303). -/
  pendingClear : s.pending = true → s.done = false ∧ s.err = false
  /-- ERR is set only with a non-zero code (R23). -/
  errHasCode : s.err = true → s.errCode ≠ 0#4
  /-- Codes 9 to 15 are never produced (R300, U8). -/
  codeRange : s.errCode.toNat ≤ 8
  /-- ERRINFO is 0 after a success (R31, R302). -/
  noCodeNoInfo : s.errCode = 0#4 → s.errOp = 0#8 ∧ s.errStage = 0#8
  /-- SCORE is the sum of the PEN registers (R39). -/
  scoreIsSum : s.score = s.pen1 + s.pen2 + s.pen3 + s.pen4
  /-- MASK is the first mask of least score (R251). -/
  maskIsLeast : ∀ k : Fin 8, s.scores[s.mask.toNat] ≤ s.scores[k.val] ∧
    (k.val < s.mask.toNat → s.scores[s.mask.toNat] < s.scores[k.val])
  /-- The matrix is as its state says (R45, R217, R223, R248, R251). -/
  cells : s.CellsOk

end Sys2Proof.Machine
end

