-- ==== Sys2Proof/Certificates/Slice0/Obligations.lean ====
section
/-! DEFINITION. The statements for the provers. The helpers of `Sys2Proof.Spec` are written from the spec's words, apart
from the machine's own definitions, so that a statement compares the two. -/

namespace Sys2Proof.Spec

open Sys2Proof.Machine

/-- The state after `complete()` (R302). -/
def succeeded (s : State) : State :=
  { s with errCode := 0#4, errOp := 0#8, errStage := 0#8, pending := false, done := true }

/-- The state after `raise` of an error code at a stage (R303). -/
def failed (s : State) (code : BitVec 4) (stage : Byte) : State :=
  { s with errCode := code, errOp := s.cmdl.setWidth 8, errStage := stage, pending := false, done := true, err := true }

/-- A bus offset (R60). -/
def offset (o : Nat) : BitVec 12 := BitVec.ofNat 12 o

/-- CONFIG selects a supported version, or none (R25). -/
def supports (s : State) (v : Version) : Prop := s.version = v.code

def unsupported (s : State) : Prop := s.version = 0#2 ∨ s.version = 3#2

/-- The bytes from a window offset upward are exactly those of a list (each holds a value). -/
def holds (s : State) (o : Nat) (vs : List Byte) : Prop := ∀ k, k < vs.length → s.byteAt (o + k) = vs[k]?

/-- One of `n` bytes from a window offset upward holds no value. -/
def lacks (s : State) (o n : Nat) : Prop := ∃ k, k < n ∧ s.byteAt (o + k) = none

/-- Of all bytes the host can see, exactly those from an offset upward become a list's; every other byte is as before. -/
def storesAt (s t : State) (o : Nat) (vs : List Byte) : Prop :=
  ∀ a, t.byteAt a = if o ≤ a ∧ a < o + vs.length then vs[a - o]? else s.byteAt a

/-- The offsets of R21, row by row. -/
def registerOffset : RegName → Nat
  | .id => 0x000
  | .ctrl => 0x004
  | .status => 0x008
  | .cmd => 0x00C
  | .config => 0x010
  | .arg0 => 0x014
  | .arg1 => 0x018
  | .result => 0x01C
  | .errcode => 0x020
  | .errinfo => 0x024
  | .dlen => 0x028
  | .eclen => 0x02C
  | .bitcnt => 0x030
  | .mxstat => 0x034
  | .mask => 0x038
  | .score => 0x03C
  | .scores m => 0x040 + 4 * m.val
  | .pen k => 0x060 + 4 * k.val

/-- MXSTAT in every MXSTATE (R35): STATE + 4 VER + 256 N. -/
def mxstatValue : MxState → Nat
  | .empty => 0
  | .built .v1 => 1 + 4 * 1 + 256 * 21
  | .built .v2 => 1 + 4 * 2 + 256 * 25
  | .placed .v1 => 2 + 4 * 1 + 256 * 21
  | .placed .v2 => 2 + 4 * 2 + 256 * 25
  | .masked .v1 => 3 + 4 * 1 + 256 * 21
  | .masked .v2 => 3 + 4 * 2 + 256 * 25

/-- What each register reads, as a number, by the fields of R22 to R39: each field times its place. -/
def registerValue (s : State) : RegName → Nat
  | .id => 0x51520007
  | .ctrl => s.irqen.toNat
  | .status => s.pending.toNat + 2 * s.done.toNat + 4 * s.err.toNat + 8 * s.ovr.toNat
  | .cmd => 0
  | .config => s.version.toNat + 4 * s.ecc.toNat
  | .arg0 => s.arg0.toNat
  | .arg1 => s.arg1.toNat
  | .result => s.result.toNat
  | .errcode => s.errCode.toNat
  | .errinfo => s.errOp.toNat + 256 * s.errStage.toNat
  | .dlen => s.dlen.toNat
  | .eclen => s.eclen.toNat
  | .bitcnt => s.bitcnt.toNat
  | .mxstat => mxstatValue s.mx
  | .mask => s.mask.toNat
  | .score => s.score.toNat
  | .scores m => (s.scores[m.val]).toNat
  | .pen k => if k.val = 0 then s.pen1.toNat else if k.val = 1 then s.pen2.toNat else if k.val = 2 then s.pen3.toNat
      else s.pen4.toNat

/-- The host's read of a register through the bus. -/
def readAt (r : RegName) : BusAccess := .read (offset (registerOffset r)) .word

/-- The host's write of a register through the bus. -/
def writeAt (r : RegName) (v : Word) : BusAccess := .write (offset (registerOffset r)) .word v

/-- The state after an `rd` that answered `w`: only the host's read value and what its branches test change (R67, R99). -/
def afterRd (s : State) (w : Word) : State := { s with host := { s.host with rdata := w, rd := w } }

/-- The state with the host at statement `n` of its program. -/
def hostAt (s : State) (n : Nat) : State := { s with host := { s.host with pc := n } }

/-- An access that R61 to R63 call a bus error. -/
def badAccess (a : BusAccess) : Prop :=
  (0x070 ≤ a.offset ∧ a.offset < 0x100) ∨ (0x2C0 ≤ a.offset ∧ a.offset < 0x400) ∨ 0x680 ≤ a.offset ∨
  (a.offset < 0x070 ∧ (a.width ≠ .word ∨ a.offset % 4 ≠ 0)) ∨
  (0x100 ≤ a.offset ∧ a.offset % a.width.bytes ≠ 0)

/-- The accesses R313 allows while a command is pending. -/
def allowedWhileBusy (a : BusAccess) : Prop :=
  a = readAt .status ∨ (∃ v, a = writeAt .status v) ∨ (∃ v, a = writeAt .ctrl v) ∨ ∃ v, a = writeAt .cmd v

/-- α^i by the loop of R120: doubling with a 9-bit intermediate, reduced by 0x11D. -/
def alphaPow : Nat → Byte
  | 0 => 0x01#8
  | i + 1 =>
    let t := (alphaPow i).setWidth 9 <<< 1
    (if t.getLsbD 8 then t ^^^ 0x11D#9 else t).setWidth 8

/-- The carry-less product of two bytes. -/
def carrylessProduct (a b : Byte) : BitVec 16 :=
  (List.range 8).foldl (fun p i => if b.getLsbD i then p ^^^ (a.setWidth 16 <<< i) else p) 0#16

/-- A 16-bit polynomial reduced modulo 0x11D, from its top bit down. -/
def reduced (p : BitVec 16) : Byte :=
  ((List.range 8).foldl (fun q k => if q.getLsbD (15 - k) then q ^^^ (0x11D#16 <<< (7 - k)) else q) p).setWidth 8

/-- The value of a coefficient list, highest degree first, at a field element (R140). -/
def evalPoly (cs : List Byte) (x : Byte) : Byte := cs.foldl (fun acc c => gmul acc x ^^^ c) 0x00#8

/-- The capacity table's rows (R180): version, level, T, D, E, B. -/
def capacityRows : List (Version × EccLevel × Nat × Nat × Nat × Nat) :=
  [(.v1, .L, 26, 19, 7, 1), (.v1, .M, 26, 16, 10, 1), (.v1, .Q, 26, 13, 13, 1), (.v1, .H, 26, 9, 17, 1),
   (.v2, .L, 44, 34, 10, 1), (.v2, .M, 44, 28, 16, 1), (.v2, .Q, 44, 22, 22, 1), (.v2, .H, 44, 16, 28, 1)]

/-- Data codeword k of a payload (R164), by nibbles. -/
def dataCodeword (p : List Byte) (k : Nat) : Byte :=
  let n := p.length
  let high (i : Nat) : Byte := p.getD i 0x00#8 >>> 4
  let low (i : Nat) : Byte := (p.getD i 0x00#8 &&& 0x0F#8) <<< 4
  if k = 0 then 0x40#8 ||| BitVec.ofNat 8 (n / 16)
  else if k = 1 then (BitVec.ofNat 8 (n % 16) <<< 4) ||| (if 1 ≤ n then high 0 else 0x00#8)
  else if k ≤ n then low (k - 2) ||| high (k - 1)
  else if k = n + 1 then low (n - 1)
  else if (k - (n + 2)) % 2 = 0 then 0xEC#8 else 0x11#8

/-- The D data codewords of a payload (R164). -/
def dataCodewords (p : List Byte) (d : Nat) : List Byte := (List.range d).map (dataCodeword p)

/-- The format word by its derivation (R184). -/
def bchFormatWord (l : EccLevel) (m : Nat) : Nat :=
  let ind : Nat := match l with
    | .L => 1
    | .M => 0
    | .Q => 3
    | .H => 2
  let data := ind * 8 + m
  let rem := (List.range 10).foldl (fun rem _ => (rem * 2) ^^^ (rem / 512 * 0x537)) data
  (data * 1024 ||| rem) ^^^ 0x5412

/-- Bit k of the supply (R220): the data codewords, then the EC codewords, most significant bit first, then zeros. -/
def supplyBit (d e : List Byte) (k : Nat) : Bool :=
  if k < 8 * d.length then (d.getD (k / 8) 0x00#8).getLsbD (7 - k % 8)
  else if k < 8 * (d.length + e.length) then (e.getD (k / 8 - d.length) 0x00#8).getLsbD (7 - k % 8)
  else false

/-- The byte offset of cell (r, c) in the MATRIX window (R45, R60). -/
def cellOffset (v : Version) (r c : Nat) : Nat := 0x400 + r * v.size + c

/-- A cell's byte (R40): DARK + 2 KIND, KIND 0 for Unset, 1 for Data, 2 for Reserved. -/
def cellByte : Cell → Byte
  | .unset => 0x00#8
  | .data b => BitVec.ofNat 8 (b.toNat + 2 * 1)
  | .reserved b => BitVec.ofNat 8 (b.toNat + 2 * 2)

/-- A grid is what MATRIX shows: N by N, and every cell's byte stands at its offset in the window (R40, R45). -/
def gridShows (s : State) (v : Version) (g : Grid) : Prop :=
  g.length = v.size ∧ (∀ row ∈ g, row.length = v.size) ∧
    ∀ r c k, g.cell? r c = some k → s.byteAt (cellOffset v r c) = some (cellByte k)

/-- The right columns of the column pairs (R219): from the right, column 6 skipped. -/
def pairColumns : Version → List Nat
  | .v1 => [20, 18, 16, 14, 12, 10, 8, 5, 3, 1]
  | .v2 => [24, 22, 20, 18, 16, 14, 12, 10, 8, 5, 3, 1]

/-- The whole traversal of R219: pair 0 upward, then downward, and so on in turn; in each row the right cell first. -/
def zigzagPath (v : Version) : List (Nat × Nat) :=
  (pairColumns v).zipIdx.flatMap (fun p =>
    (List.range v.size).flatMap (fun k =>
      let r := if p.2 % 2 = 0 then v.size - 1 - k else k
      [(r, p.1), (r, p.1 - 1)]))

/-- M(r, c) is a cell that is not Reserved. -/
def notReserved (g : Grid) (p : Nat × Nat) : Bool :=
  match g.cell? p.1 p.2 with
  | some .unset => true
  | some (.data _) => true
  | some (.reserved _) => false
  | none => false

/-- F1 and F2 of R216, bit 0 first, for size `n`. -/
def formatCells1 : List (Nat × Nat) :=
  [(0, 8), (1, 8), (2, 8), (3, 8), (4, 8), (5, 8), (7, 8), (8, 8), (8, 7), (8, 5), (8, 4), (8, 3), (8, 2), (8, 1), (8, 0)]

def formatCells2 (n : Nat) : List (Nat × Nat) :=
  [(8, n - 1), (8, n - 2), (8, n - 3), (8, n - 4), (8, n - 5), (8, n - 6), (8, n - 7), (8, n - 8),
   (n - 7, 8), (n - 6, 8), (n - 5, 8), (n - 4, 8), (n - 3, 8), (n - 2, 8), (n - 1, 8)]

/-- How many cells of an N by N matrix satisfy a test. -/
def countCells (n : Nat) (p : Nat → Nat → Bool) : Nat :=
  ((List.range n).map (fun r => (List.range n).countP (fun c => p r c))).sum

/-- A square picture. -/
def square (rows : List (List Bool)) (n : Nat) : Prop := rows.length = n ∧ ∀ row ∈ rows, row.length = n

/-- B(r, c) of a picture (R242). -/
def pixel (rows : List (List Bool)) (r c : Nat) : Bool := (rows.getD r []).getD c false

/-- The points of a line by its maximal runs (R243). -/
def runScore (l : List Bool) : Nat :=
  ((l.splitBy (fun a b => a == b)).map (fun run => if 5 ≤ run.length then 3 + (run.length - 5) else 0)).sum

/-- The number of 11-module windows of a line that equal a sequence (R245). -/
def windowCount (seq l : List Bool) : Nat :=
  (List.range (l.length - 10)).countP (fun k => 11 ≤ l.length && (l.drop k).take 11 == seq)

/-- The 2 N lines of a picture (R242): its rows, then its columns. -/
def lines (rows : List (List Bool)) (n : Nat) : List (List Bool) :=
  (List.range n).map (fun r => (List.range n).map (fun c => pixel rows r c)) ++
    (List.range n).map (fun c => (List.range n).map (fun r => pixel rows r c))

/-- The sequence A of R245 and its reverse. -/
def sequenceA : List Bool := [true, false, true, true, true, false, true, false, false, false, false]

def sequenceA' : List Bool := [false, false, false, false, true, false, true, true, true, false, true]

/-- The commands whose rules write RESULT (R21). -/
def writesResult : Instr → Bool
  | .gfMul => true
  | .gfExp => true
  | .gfLog => true
  | .rsGen _ => true
  | .tblCap => true
  | .tblGeom => true
  | .tblFmt _ => true
  | .nop => false
  | .rsEnc _ => false
  | .bsBuild => false
  | .mxBuild => false
  | .mxPlace => false
  | .maskScore _ => false
  | .maskSelect => false
  | .encode => false

/-- The stage a command other than ENCODE reports is its own opcode; ENCODE reports its first stage (R31, R272). -/
def failingStage (i : Instr) : Byte := if i = .encode then 0x06#8 else i.fields.opcode

end Sys2Proof.Spec

open Sys2Proof Sys2Proof.Machine Sys2Proof.Spec

/-! ### Encoding -/

/-- R101: the encoding examples, legal and illegal, and the word `cfg 1, M` writes. -/
def Obligations.EncodingExamplesOfTheSpec : Prop :=
  decode 0x00000000#32 = some .nop ∧ decode 0x00000001#32 = some .gfMul ∧
  decode 0x00000805#32 = some (.rsEnc true) ∧ decode 0x00000004#32 = some (.rsGen false) ∧
  decode 0x00000309#32 = some (.maskScore 3#3) ∧ decode 0x0000070D#32 = some (.tblFmt 7#3) ∧
  decode 0x0000000E#32 = some .encode ∧
  decode 0x0000000F#32 = none ∧ decode 0x00000101#32 = none ∧ decode 0x0000080A#32 = none ∧
  decode 0x00001000#32 = none ∧
  commandWord .NOP none false = 0x00000000#32 ∧ commandWord .GF_MUL none false = 0x00000001#32 ∧
  commandWord .RS_ENC none true = 0x00000805#32 ∧ commandWord .RS_GEN none false = 0x00000004#32 ∧
  commandWord .MASK_SCORE (some 3) false = 0x00000309#32 ∧ commandWord .TBL_FMT (some 7) false = 0x0000070D#32 ∧
  commandWord .ENCODE none false = 0x0000000E#32 ∧
  (AsmStmt.cfg 1#32 .M).expand [] 0 = .ok [.access (writeAt .config 0x5#32)]

/-- Every command has exactly one word, and every other word has none: over all 2^32 words (R90, R94, R95, R97). -/
def Obligations.DecodeInvertsEncodeExactly : Prop := ∀ (w : Word) (i : Instr), decode w = some i ↔ w = encode i

/-- R94: no two rows match the same word. -/
def Obligations.OpcodeRowsDoNotOverlap : Prop :=
  opcodeMap.Pairwise (fun r r' => ∀ w : Word, ¬(r.selects w = true ∧ r'.selects w = true))

/-- R95: a word that a row selects decodes to the row's command; a word that no row selects completes with
ILLEGAL_COMMAND and changes only STATUS, ERRCODE and ERRINFO. -/
def Obligations.UnmatchedWordsAreIllegalCommands : Prop :=
  (∀ (w : Word) (r : OpcodeRow), r ∈ opcodeMap → r.selects w = true → decode w = some (r.command w)) ∧
  ∀ s : State, s.pending = true → s.delay = 0 → (∀ r ∈ opcodeMap, (s.cmdl &&& r.maskValue) ≠ r.matchValue) →
    step s = .next (failed s 1#4 (s.cmdl.setWidth 8))

/-- The assembler's command statements (R99). `m=` is legal with 0..7 on MASK_SCORE and TBL_FMT, `x` on RS_GEN and RS_ENC.
A legal statement, `m=0` among them, is the CMD write of a word that decodes to a command of its opcode, mask and x; any other is
refused by name. A refused one with a mask absent or in 1..7 would encode an illegal word (R95); with `m=0` its word would be
that of the statement without `m=`. -/
def Obligations.AssemblerWordsDecodeExactlyWhenLegal : Prop :=
  ∀ (mn : Mnemonic) (m : Option Nat) (x : Bool),
    let legal := (m = none ∨ (mn = .MASK_SCORE ∨ mn = .TBL_FMT) ∧ ∃ k, m = some k ∧ k < 8) ∧
      (x = false ∨ mn = .RS_GEN ∨ mn = .RS_ENC)
    (legal → assemble [.command mn m x] = .ok [.access (writeAt .cmd (commandWord mn m x))] ∧
      ∃ i, decode (commandWord mn m x) = some i ∧ i.fields.opcode.toNat = mn.opcode ∧
        i.fields.mask.toNat = m.getD 0 ∧ i.fields.x = x) ∧
    (¬legal → assemble [.command mn m x] = .error (.illFormed (.command mn m x))) ∧
    (¬legal → (∀ k, m = some k → 1 ≤ k ∧ k < 8) → decode (commandWord mn m x) = none) ∧
    commandWord mn (some 0) x = commandWord mn none x

/-! ### Steps and reset -/

/-- One step: the decoded command of CMDL when its wait is over, else one turn of the host. The wait is the model's own
(log 4). A turn of the host (R70, R99) is the access at its position, made with the position one further, or a branch on bit 0 of
the last `rd`; a program that is over leaves the state as it is (log 21). -/
def Obligations.StepRunsTheDecodedCommand : Prop :=
  ∀ s : State,
    (∀ a, s.host.prog[s.host.pc]? = some (.access a) → s.hostTurn = (hostAt s (s.host.pc + 1)).access a) ∧
    (∀ n, s.host.prog[s.host.pc]? = some (.bnz n) →
      s.hostTurn = .next (if s.host.rd.getLsbD 0 = true then hostAt s n else hostAt s (s.host.pc + 1))) ∧
    (∀ n, s.host.prog[s.host.pc]? = some (.bz n) →
      s.hostTurn = .next (if s.host.rd.getLsbD 0 = true then hostAt s (s.host.pc + 1) else hostAt s n)) ∧
    (s.host.prog.length ≤ s.host.pc → s.hostTurn = .next s) ∧
    (∀ i, s.pending = true → s.delay = 0 → decode s.cmdl = some i → step s = exec i s) ∧
    (∀ n, s.pending = true → s.delay = n + 1 → step s = State.hostTurn { s with delay := n }) ∧
    (s.pending = false → step s = s.hostTurn)

/-- Power-on reset as the host and the rules see it (R340, R341). -/
def Obligations.PowerOnResetState : Prop :=
  (∀ r : RegName, State.reset.readReg r = if r = .id then 0x51520007#32 else 0#32) ∧
  State.reset.cmdl = 0#32 ∧ State.reset.pending = false ∧ State.reset.mx = .empty ∧ State.reset.irq = false ∧
  (∀ o, 0x100 ≤ o → o < 0x2C0 → State.reset.byteAt o = none) ∧
  ∀ k, k < 625 → State.reset.byteAt (0x400 + k) = none

/-- The invariant holds after power-on reset. -/
def Obligations.ResetMeetsTheMachineInvariant : Prop := State.reset.Inv

/-- Every step, of the core or of the host, keeps the invariant: the byte memory stays canonical, a pending command
has DONE and ERR clear, ERR never stands with code 0, codes stay at most 8, SCORE is the sum of the PENs, MASK is the first
least of SCORES, and the matrix is as MXSTATE says (R23, R39, R45, R223, R248, R251, R300). -/
def Obligations.EveryStepKeepsTheMachineInvariant : Prop :=
  ∀ s t : State, s.Inv → step s = .next t → t.Inv

/-- What each command does right after power-on reset, with nothing written (R344; GF_LOG's operand is ARG0[7:0], R124). -/
def Obligations.CommandsRightAfterReset : Prop :=
  let run (i : Instr) := step (State.reset.withFetchWord 32 (encode i).toNat)
  let s0 (i : Instr) := State.reset.withFetchWord 32 (encode i).toNat
  let fails (i : Instr) (code : BitVec 4) (stage : Byte) := run i = .next (failed (s0 i) code stage)
  run .nop = .next (succeeded (s0 .nop)) ∧
  run .gfMul = .next (succeeded (s0 .gfMul)) ∧
  run .gfExp = .next (succeeded { s0 .gfExp with result := 1#32 }) ∧
  fails .gfLog 5#4 0x03#8 ∧
  (∀ v : Word, v.setWidth 8 ≠ 0#8 →
    ∃ t, step { s0 .gfLog with arg0 := v } = .next t ∧ t.errCode = 0#4 ∧ t.err = false) ∧
  run (.rsGen true) = .next (succeeded { s0 (.rsGen true) with mem := [(0x280, 0x01#8)], result := 1#32 }) ∧
  run (.rsEnc true) = .next (succeeded (s0 (.rsEnc true))) ∧
  (∀ m, fails (.maskScore m) 4#4 0x09#8) ∧
  fails (.rsGen false) 2#4 0x04#8 ∧ fails (.rsEnc false) 2#4 0x05#8 ∧ fails .bsBuild 2#4 0x06#8 ∧
  fails .mxBuild 2#4 0x07#8 ∧ fails .mxPlace 2#4 0x08#8 ∧ fails .maskSelect 2#4 0x0A#8 ∧ fails .tblCap 2#4 0x0B#8 ∧
  fails .tblGeom 2#4 0x0C#8 ∧ (∀ m, fails (.tblFmt m) 2#4 0x0D#8) ∧ fails .encode 2#4 0x06#8

/-- R342: a CTRL write with SRST = 1 resets every register, abandons a pending command, and drops every byte and cell
if one was pending, else keeps them; with SRST = 0 it writes IRQEN and nothing else. That the host agent stays is the model's
choice (log 12). -/
def Obligations.CtrlWriteResetsOrEnables : Prop :=
  ∀ (s : State) (v : Word),
    (v.getLsbD 1 = true → ∃ t, s.access (writeAt .ctrl v) = .next t ∧
      (∀ r, t.readReg r = if r = .id then 0x51520007#32 else 0#32) ∧
      t.cmdl = 0#32 ∧ t.pending = false ∧ t.mx = .empty ∧ t.irq = false ∧ t.host = s.host ∧
      (s.pending = true → (∀ o, 0x100 ≤ o → o < 0x2C0 → t.byteAt o = none) ∧
        ∀ k, k < 625 → t.byteAt (0x400 + k) = none) ∧
      (s.pending = false → t.mem = s.mem ∧ t.matrix = s.matrix)) ∧
    (v.getLsbD 1 = false → s.access (writeAt .ctrl v) = .next { s with irqen := v.getLsbD 0 })

/-! ### The host interface -/

/-- The bus errors, exactly (R61 to R63, R310; while a command is pending by log 8), and an access that is none lies in one
region. -/
def Obligations.BusErrorsExactly : Prop :=
  ∀ (s : State) (a : BusAccess),
    (s.access a = .fault .busError ↔ badAccess a) ∧
    (¬badAccess a → ∀ k, k < a.width.bytes → regionOf (a.offset + k) = regionOf a.offset)

/-- The hazards by R313, exactly, among the accesses that are no bus errors (log 8 is the model's choice for the others).
That they end when the command completes, and not at the first STATUS read that shows BUSY = 0 as R350 is worded, is the reading
of R313 that the model chooses (log 9). -/
def Obligations.HazardsExactly : Prop :=
  ∀ (s : State) (a : BusAccess), ¬badAccess a →
    (s.access a = .fault .hazard ↔ s.pending = true ∧ ¬allowedWhileBusy a)

/-- R24: a CMD write is accepted or dropped; CMD reads 0. The wait, the schedule and the draw counter of an accepted
command are the model's own (log 4). -/
def Obligations.CmdWriteIsAcceptedOrDropped : Prop :=
  ∀ (s : State) (w : Word),
    (s.pending = false → ∃ d l n, s.access (writeAt .cmd w) = .next
      { s with cmdl := w, pending := true, done := false, err := false, delay := d, latencies := l, draws := n }) ∧
    (s.pending = true → s.access (writeAt .cmd w) = .next { s with ovr := true }) ∧
    (s.pending = false → s.access (readAt .cmd) = .next (afterRd s 0#32))

/-- STATUS through the bus, pending or not (R23): its four bits as read, and write-one-to-clear of three of them. -/
def Obligations.StatusReadsAndClears : Prop :=
  ∀ (s : State) (v : Word),
    s.access (writeAt .status v) = .next
      { s with done := s.done && !v.getLsbD 1, err := s.err && !v.getLsbD 2, ovr := s.ovr && !v.getLsbD 3 } ∧
    ∃ w : Word, s.access (readAt .status) = .next (afterRd s w) ∧
      w.getLsbD 0 = s.pending ∧ w.getLsbD 1 = s.done ∧ w.getLsbD 2 = s.err ∧ w.getLsbD 3 = s.ovr ∧ w.toNat < 16

/-- CONFIG and the operand registers (R25, R28): what a write keeps, and what is read back. -/
def Obligations.ConfigAndOperandRegisters : Prop :=
  ∀ (s : State) (v : Word), s.pending = false →
    (∃ t, s.access (writeAt .config v) = .next t ∧
      t = { s with version := v.extractLsb' 0 2, ecc := v.extractLsb' 2 2 } ∧ t.readReg .config = v &&& 0xF#32) ∧
    s.access (writeAt .arg0 v) = .next { s with arg0 := v } ∧ s.access (writeAt .arg1 v) = .next { s with arg1 := v }

/-- R27: ID reads 0x5152_0007 at all times, and a write of it is ignored. -/
def Obligations.IdRegisterIsConstant : Prop :=
  ∀ s : State, s.readReg .id = 0x51520007#32 ∧
    ∀ v : Word, s.pending = false → s.access (writeAt .id v) = .next s

/-- Every register is read at its offset of R21 as R22 to R39 give its fields, without a side effect (R67), and every
read-only register ignores writes. -/
def Obligations.RegistersReadAndReadOnlyWritesAreIgnored : Prop :=
  ∀ (s : State) (r : RegName), s.pending = false →
    (∃ w : Word, w.toNat = registerValue s r ∧ s.readReg r = w ∧ s.access (readAt r) = .next (afterRd s w)) ∧
    (r ∉ [RegName.ctrl, .status, .cmd, .config, .arg0, .arg1] → ∀ v, s.access (writeAt r v) = .next s)

/-- R49: irq is IRQEN and DONE; so a completion, failed or not, raises it when enabled, and clearing DONE, an accepted
command or IRQEN = 0 lowers it. -/
def Obligations.IrqFollowsEnableAndDone : Prop :=
  ∀ s : State, (s.irq = true ↔ s.irqen = true ∧ s.done = true) ∧
    (∀ i t, exec i s = .next t → t.irq = s.irqen) ∧
    (∀ v t, v.getLsbD 1 = true → s.access (writeAt .status v) = .next t → t.irq = false) ∧
    (∀ w t, s.pending = false → s.access (writeAt .cmd w) = .next t → t.irq = false)

/-- A window read (R64, R65), little-endian; a lane whose byte holds no value is a free draw, the others return their values,
and no byte gains or changes a value. How the draws are numbered is the model's (logs 2, 3), and so is
that the bits above an 8- or 16-bit read's bytes are zero in the host's read value (log 14). -/
def Obligations.WindowReadsAreLittleEndianWithFreeLanes : Prop :=
  ∀ (s : State) (o : BitVec 12) (w : Width) (b : BufName), s.pending = false → regionOf o.toNat = .window b →
    o.toNat % w.bytes = 0 → ∃ t, s.access (.read o w) = .next t ∧
      t = { s with host := { s.host with rdata := t.host.rdata }, draws := s.draws + 1 } ∧
      t.host.rdata.toNat = ((List.range w.bytes).map (fun k =>
        ((s.byteAt (o.toNat + k)).getD (Config.freeByte s.draws k)).toNat * 2 ^ (8 * k))).sum ∧
      ∀ a, t.byteAt a = s.byteAt a

/-- A window write (R64, R66) stores its bytes, lowest first, in TEXT, DATA and EC, and nothing else changes; GEN and
MATRIX ignore it. That a narrow write uses the low bits of the bus value is log 13. -/
def Obligations.WindowWritesStoreTheirBytes : Prop :=
  ∀ (s : State) (o : BitVec 12) (w : Width) (v : Word) (b : BufName), s.pending = false →
    regionOf o.toNat = .window b → o.toNat % w.bytes = 0 →
    (b ∈ [BufName.text, .data, .ec] → ∃ t, s.access (.write o w v) = .next t ∧ t = { s with mem := t.mem } ∧
      storesAt s t o.toNat ((List.range w.bytes).map (fun k => v.extractLsb' (8 * k) 8))) ∧
    (b ∈ [BufName.gen, .matrix] → s.access (.write o w v) = .next s)

/-- Host reads change no state of the block (R67), and a window read does not change what the host's branches test (R99). -/
def Obligations.HostReadsHaveNoSideEffects : Prop :=
  ∀ (s t : State) (o : BitVec 12) (w : Width), s.access (.read o w) = .next t →
    t = { s with host := { s.host with rdata := t.host.rdata, rd := t.host.rd }, draws := t.draws } ∧
      (0x100 ≤ o.toNat → t.host.rd = s.host.rd)

/-- Every host write but a CMD write is idempotent (R67), in any state whose memory is canonical. -/
def Obligations.HostWritesAreIdempotentExceptCmd : Prop :=
  ∀ (s t : State) (o : BitVec 12) (w : Width) (v : Word), s.mem.wf → o ≠ 0x00C#12 →
    s.access (.write o w v) = .next t → t.access (.write o w v) = .next t

/-- While a command stays pending, no step changes its latched word, its operands or anything a command can write
(R69, R74). -/
def Obligations.PendingCommandKeepsItsOperands : Prop :=
  ∀ s t : State, s.pending = true → step s = .next t → t.pending = true →
    t = { s with irqen := t.irqen, done := t.done, err := t.err, ovr := t.ovr, host := t.host, delay := t.delay }

/-- Weak fairness (R360): within `delay + 1` steps a pending command is executed (or a soft reset abandons it). The
count of host turns is the model's (log 4). -/
def Obligations.PendingCommandLeavesPendingInTime : Prop :=
  ∀ s t : State, s.pending = true → Host.Core.run Sys2Proof.core (s.delay + 1) s = .next t →
    ∃ k u v, k ≤ s.delay ∧ Host.Core.run Sys2Proof.core k s = .next u ∧ u.pending = true ∧ step u = .next v ∧
      v.pending = false

/-! ### Field arithmetic -/

/-- R120: the ROMs hold what the loop computes; LOG[0] holds no value. -/
def Obligations.FieldRomsFollowTheirDefinition : Prop :=
  (∀ i, i < 256 → gfExp (BitVec.ofNat 8 i) = alphaPow i) ∧
  (∀ i, i < 255 → gfLog? (alphaPow i) = some (BitVec.ofNat 8 i)) ∧
  gfLog? 0x00#8 = none ∧ alphaPow 255 = 0x01#8

/-- R121, R122: the product short-circuits on 0, else goes through the logarithms, and equals the carry-less product
reduced modulo 0x11D; GF_MUL writes it to RESULT and completes, changing nothing else. -/
def Obligations.GfMulIsTheReducedCarrylessProduct : Prop :=
  (∀ a b : Byte, gmul a b = reduced (carrylessProduct a b)) ∧
  (∀ a b : Byte, a = 0#8 ∨ b = 0#8 → gmul a b = 0#8) ∧
  (∀ a b la lb : Byte, gfLog? a = some la → gfLog? b = some lb →
    gmul a b = gfExp (BitVec.ofNat 8 ((la.toNat + lb.toNat) % 255))) ∧
  ∀ s : State, exec .gfMul s = .next (succeeded { s with
    result := (reduced (carrylessProduct (s.arg0.setWidth 8) (s.arg1.setWidth 8))).setWidth 32 })

/-- R123: GF_EXP writes α^p, p = ARG0[7:0], to RESULT and completes, changing nothing else; the result is never 0. -/
def Obligations.GfExpIsAPowerOfAlpha : Prop :=
  ∀ s : State, exec .gfExp s = .next (succeeded { s with result := (alphaPow (s.arg0.toNat % 256)).setWidth 32 }) ∧
    alphaPow (s.arg0.toNat % 256) ≠ 0#8

/-- R124: GF_LOG writes the exponent of ARG0[7:0], at most 254; on 0 it raises DOMAIN and RESULT is unchanged. -/
def Obligations.GfLogIsTheExponentOrDomainError : Prop :=
  ∀ s : State,
    (s.arg0.setWidth 8 ≠ 0#8 → ∃ p : Byte, exec .gfLog s = .next (succeeded { s with result := p.setWidth 32 }) ∧
      p.toNat ≤ 254 ∧ alphaPow p.toNat = s.arg0.setWidth 8) ∧
    (s.arg0.setWidth 8 = 0#8 → exec .gfLog s = .next (failed s 5#4 0x03#8))

/-- R125: the field laws. -/
def Obligations.FieldLawsHold : Prop :=
  (∀ a b : Byte, gmul a b = gmul b a) ∧
  (∀ a b c : Byte, gmul (gmul a b) c = gmul a (gmul b c)) ∧
  (∀ a b c : Byte, gmul a (b ^^^ c) = gmul a b ^^^ gmul a c) ∧
  (∀ a : Byte, gmul a 1#8 = a ∧ gmul a 0#8 = 0#8) ∧
  (∀ a l b : Byte, gfLog? a = some l → (gmul a b = 1#8 ↔ b = gfExp (BitVec.ofNat 8 ((255 - l.toNat) % 255)))) ∧
  (∀ v : Byte, v ≠ 0#8 → ∃ l, gfLog? v = some l ∧ gfExp l = v) ∧
  (∀ p : Byte, gfLog? (gfExp p) = some (BitVec.ofNat 8 (p.toNat % 255)))

/-! ### Reed-Solomon -/

/-- R141: g_0 = 1 and each step multiplies by x + α^n, coefficient by coefficient; so g_n is monic, has n + 1
coefficients and vanishes at α^0 .. α^(n−1). -/
def Obligations.GeneratorIsTheProductOfItsFactors : Prop :=
  genpoly 0 = [0x01#8] ∧
  (∀ n, n < 63 → ∀ k, k ≤ n + 1 → (genpoly (n + 1)).getD k 0#8 =
    (genpoly n).getD k 0#8 ^^^ (if k = 0 then 0#8 else gmul ((genpoly n).getD (k - 1) 0#8) (alphaPow n))) ∧
  ∀ n, n ≤ 63 → (genpoly n).length = n + 1 ∧ (genpoly n).head? = some 0x01#8 ∧
    ∀ i, i < n → evalPoly (genpoly n) (alphaPow i) = 0#8

/-- R146: the generator polynomials of the capacity table's EC counts, in hex and as exponents. -/
def Obligations.GeneratorTableOfTheSpec : Prop :=
  genpoly 7 = [0x01#8, 0x7F#8, 0x7A#8, 0x9A#8, 0xA4#8, 0x0B#8, 0x44#8, 0x75#8] ∧
  genpoly 10 = [0x01#8, 0xD8#8, 0xC2#8, 0x9F#8, 0x6F#8, 0xC7#8, 0x5E#8, 0x5F#8, 0x71#8, 0x9D#8, 0xC1#8] ∧
  genpoly 13 = [0x01#8, 0x89#8, 0x49#8, 0xE3#8, 0x11#8, 0xB1#8, 0x11#8, 0x34#8, 0x0D#8, 0x2E#8, 0x2B#8, 0x53#8, 0x84#8,
    0x78#8] ∧
  genpoly 16 = [0x01#8, 0x3B#8, 0x0D#8, 0x68#8, 0xBD#8, 0x44#8, 0xD1#8, 0x1E#8, 0x08#8, 0xA3#8, 0x41#8, 0x29#8, 0xE5#8,
    0x62#8, 0x32#8, 0x24#8, 0x3B#8] ∧
  genpoly 17 = [0x01#8, 0x77#8, 0x42#8, 0x53#8, 0x78#8, 0x77#8, 0x16#8, 0xC5#8, 0x53#8, 0xF9#8, 0x29#8, 0x8F#8, 0x86#8,
    0x55#8, 0x35#8, 0x7D#8, 0x63#8, 0x4F#8] ∧
  genpoly 22 = [0x01#8, 0x59#8, 0xB3#8, 0x83#8, 0xB0#8, 0xB6#8, 0xF4#8, 0x13#8, 0xBD#8, 0x45#8, 0x28#8, 0x1C#8, 0x89#8,
    0x1D#8, 0x7B#8, 0x43#8, 0xFD#8, 0x56#8, 0xDA#8, 0xE6#8, 0x1A#8, 0x91#8, 0xF5#8] ∧
  genpoly 28 = [0x01#8, 0xFC#8, 0x09#8, 0x1C#8, 0x0D#8, 0x12#8, 0xFB#8, 0xD0#8, 0x96#8, 0x67#8, 0xAE#8, 0x64#8, 0x29#8,
    0xA7#8, 0x0C#8, 0xF7#8, 0x38#8, 0x75#8, 0x77#8, 0xE9#8, 0x7F#8, 0xB5#8, 0x64#8, 0x79#8, 0x93#8, 0xB0#8, 0x4A#8, 0x3A#8,
    0xC5#8] ∧
  genpoly 7 = [0, 87, 229, 146, 149, 238, 102, 21].map alphaPow ∧
  genpoly 10 = [0, 251, 67, 46, 61, 118, 70, 64, 94, 32, 45].map alphaPow ∧
  genpoly 13 = [0, 74, 152, 176, 100, 86, 100, 106, 104, 130, 218, 206, 140, 78].map alphaPow ∧
  genpoly 16 = [0, 120, 104, 107, 109, 102, 161, 76, 3, 91, 191, 147, 169, 182, 194, 225, 120].map alphaPow ∧
  genpoly 17 = [0, 43, 139, 206, 78, 43, 239, 123, 206, 214, 147, 24, 99, 150, 39, 243, 163, 136].map alphaPow ∧
  genpoly 22 = [0, 210, 171, 247, 242, 93, 230, 14, 109, 221, 53, 200, 74, 8, 172, 98, 80, 219, 134, 160, 105, 165,
    231].map alphaPow ∧
  genpoly 28 = [0, 168, 223, 200, 104, 224, 234, 108, 180, 110, 190, 195, 147, 205, 27, 232, 201, 21, 43, 245, 87, 42, 195,
    212, 119, 242, 37, 9, 123].map alphaPow

/-- R145, codeword property: data followed by its remainder is divisible by the generator: every syndrome is 0. -/
def Obligations.DataWithRemainderHasZeroSyndromes : Prop :=
  ∀ (d : List Byte) (n i : Nat), n ≤ 63 → i < n → evalPoly (d ++ rsrem d n) (alphaPow i) = 0#8

/-- R145: length, linearity, zero data and leading zeros of the remainder. -/
def Obligations.RemainderIsLinearOfFixedLength : Prop :=
  ∀ n : Nat,
    (∀ d : List Byte, (rsrem d n).length = n) ∧
    (∀ d d' : List Byte, d.length = d'.length →
      rsrem (List.zipWith (· ^^^ ·) d d') n = List.zipWith (· ^^^ ·) (rsrem d n) (rsrem d' n)) ∧
    (∀ k, rsrem (List.replicate k 0#8) n = List.replicate n 0#8) ∧
    ∀ d : List Byte, rsrem (0#8 :: d) n = rsrem d n

/-- R143: RS_GEN in both modes writes the n + 1 coefficients to the front of GEN, n + 1 to RESULT, and nothing else;
its two errors leave GEN and RESULT unchanged. -/
def Obligations.RsGenWritesTheGenerator : Prop :=
  ∀ s : State,
    let writes (x : Bool) (n : Nat) : Prop := ∃ t, exec (.rsGen x) s = .next t ∧
      t = succeeded { s with mem := t.mem, result := BitVec.ofNat 32 (n + 1) } ∧ storesAt s t 0x280 (genpoly n)
    (s.arg1.toNat ≤ 63 → writes true s.arg1.toNat) ∧
    (∀ v, supports s v → writes false (capacity v s.level).ecCount) ∧
    (63 < s.arg1.toNat → exec (.rsGen true) s = .next (failed s 3#4 0x04#8)) ∧
    (unsupported s → exec (.rsGen false) s = .next (failed s 2#4 0x04#8))

/-- R144: RS_ENC in both modes reads n_data bytes of DATA, writes the remainder to the front of EC and its length to
ECLEN, and nothing else; it faults UNINIT on a byte with no value; its two errors leave EC and ECLEN unchanged. -/
def Obligations.RsEncWritesTheRemainder : Prop :=
  ∀ s : State,
    let encodes (x : Bool) (nData n : Nat) : Prop :=
      (∀ d : List Byte, d.length = nData → holds s 0x200 d → ∃ t, exec (.rsEnc x) s = .next t ∧
        t = succeeded { s with mem := t.mem, eclen := BitVec.ofNat 8 n } ∧ storesAt s t 0x240 (rsrem d n)) ∧
      (lacks s 0x200 nData → exec (.rsEnc x) s = .fault .uninit)
    (s.arg0.toNat ≤ 64 → s.arg1.toNat ≤ 63 → encodes true s.arg0.toNat s.arg1.toNat) ∧
    (∀ v, supports s v → encodes false (capacity v s.level).dataCount (capacity v s.level).ecCount) ∧
    (64 < s.arg0.toNat ∨ 63 < s.arg1.toNat → exec (.rsEnc true) s = .next (failed s 3#4 0x05#8)) ∧
    (unsupported s → exec (.rsEnc false) s = .next (failed s 2#4 0x05#8))

/-! ### Bitstream and tables -/

/-- R163 with the codewords of R164: BS_BUILD writes the D data codewords of the payload to the front of DATA, and
DLEN and BITCNT, and nothing else; too long a payload raises CAPACITY_EXCEEDED before TEXT is read; a payload byte with no value
faults UNINIT. -/
def Obligations.BsBuildWritesTheDataCodewords : Prop :=
  ∀ s : State,
    (∀ v, supports s v →
      let d := (capacity v s.level).dataCount
      let n := s.arg0.toNat
      (8 * d < 12 + 8 * n → exec .bsBuild s = .next (failed s 6#4 0x06#8)) ∧
      (12 + 8 * n ≤ 8 * d → ∀ p : List Byte, p.length = n → holds s 0x100 p → ∃ t, exec .bsBuild s = .next t ∧
        t = succeeded { s with mem := t.mem, dlen := BitVec.ofNat 8 d, bitcnt := BitVec.ofNat 16 (12 + 8 * n) } ∧
        storesAt s t 0x200 (dataCodewords p d)) ∧
      (12 + 8 * n ≤ 8 * d → lacks s 0x100 n → exec .bsBuild s = .fault .uninit)) ∧
    (unsupported s → exec .bsBuild s = .next (failed s 2#4 0x06#8))

/-- R185, R186, R187: the table commands write their packed RESULT and complete, changing nothing else; each reports an
unsupported version. -/
def Obligations.TableCommandsPackTheirResults : Prop :=
  ∀ s : State,
    (∀ v l tt d e b, (v, l, tt, d, e, b) ∈ capacityRows → supports s v → s.ecc = l.code →
      exec .tblCap s = .next (succeeded { s with result := BitVec.ofNat 32 (b * 2 ^ 24 + e * 2 ^ 16 + d * 2 ^ 8 + tt) })) ∧
    (supports s .v1 → exec .tblGeom s = .next (succeeded { s with result := BitVec.ofNat 32 (21 + 208 * 2 ^ 20) })) ∧
    (supports s .v2 → exec .tblGeom s =
      .next (succeeded { s with result := BitVec.ofNat 32 (25 + 18 * 2 ^ 8 + 7 * 2 ^ 16 + 359 * 2 ^ 20) })) ∧
    (∀ v m, supports s v → exec (.tblFmt m) s =
      .next (succeeded { s with result := (formatWord s.level m).setWidth 32 })) ∧
    (unsupported s → exec .tblCap s = .next (failed s 2#4 0x0B#8) ∧ exec .tblGeom s = .next (failed s 2#4 0x0C#8) ∧
      ∀ m, exec (.tblFmt m) s = .next (failed s 2#4 0x0D#8))

/-- R184: the 32 format words satisfy their derivation. -/
def Obligations.FormatWordsSatisfyTheirDerivation : Prop :=
  ∀ (l : EccLevel) (m : BitVec 3), formatWord l m = BitVec.ofNat 15 (bchFormatWord l m.toNat)

/-- R188: the tables agree with one another. -/
def Obligations.TablesAreConsistent : Prop :=
  (∀ v l, (capacity v l).dataCount + (capacity v l).ecCount = (capacity v l).total ∧
    8 * (capacity v l).total + remainderBits v = dataCells v ∧ 7 ≤ (capacity v l).dataCount - 2) ∧
  ∀ (l l' : EccLevel) (m m' : BitVec 3), formatWord l m = formatWord l' m' → l = l' ∧ m = m'

/-! ### The matrix -/

/-- R211 to R215, with the format cells of R216: every function pattern stands where the rules say, with the colours they
say, and nothing else is reserved: the counts are those of R223. -/
def Obligations.FunctionPatternsStandWhereTheRulesSay : Prop :=
  ∀ v : Version, let n := v.size
    (∀ r0 c0, (r0, c0) ∈ [(0, 0), (0, n - 7), (n - 7, 0)] → ∀ i j, i < 7 → j < 7 →
      builtCell v (r0 + i) (c0 + j) =
        .reserved (i == 0 || i == 6 || j == 0 || j == 6 || (2 ≤ i && i ≤ 4 && 2 ≤ j && j ≤ 4))) ∧
    (∀ k, k < 8 → builtCell v 7 k = .reserved false ∧ builtCell v k 7 = .reserved false ∧
      builtCell v 7 (n - 8 + k) = .reserved false ∧ builtCell v k (n - 8) = .reserved false ∧
      builtCell v (n - 8) k = .reserved false ∧ builtCell v (n - 8 + k) 7 = .reserved false) ∧
    (∀ c, c < n - 8 → 8 ≤ c → builtCell v 6 c = .reserved (c % 2 == 0) ∧ builtCell v c 6 = .reserved (c % 2 == 0)) ∧
    (v = .v2 → ∀ i j, i < 5 → j < 5 → builtCell v (16 + i) (16 + j) =
      .reserved (i == 0 || i == 4 || j == 0 || j == 4 || (i == 2 && j == 2))) ∧
    builtCell v (n - 8) 8 = .reserved true ∧
    (∀ k r c, k < 15 → (formatCells1[k]? = some (r, c) ∨ (formatCells2 n)[k]? = some (r, c)) →
      builtCell v r c = .reserved false ∧ formatBitAt n r c = some k) ∧
    countCells n (fun r c => (builtCell v r c).isReserved) = (match v with | .v1 => 233 | .v2 => 266) ∧
    countCells n (fun r c => builtCell v r c == .unset) = (match v with | .v1 => 208 | .v2 => 359) ∧
    countCells n (fun r c => (formatBitAt n r c).isSome) = 30

/-- The zig-zag order (R219): the cells that are not Reserved along the traversal, on every matrix. On the built matrix
(R223) it lists every Unset cell once, starts at the bottom right, turns and skips column 6 where L2.6.3 says, and ends where the
rule says. -/
def Obligations.ZigzagOrderListsEveryFreeCellOnce : Prop :=
  ∀ v : Version, let order := placementOrder v.size (mxbuild v)
    (∀ g : Grid, placementOrder v.size g = (zigzagPath v).filter (notReserved g)) ∧
    (match v with
      | .v1 => order[22]? = some (9, 20) ∧ order[23]? = some (9, 19) ∧ order[24]? = some (9, 18) ∧
          order[182]? = some (9, 8) ∧ order[183]? = some (9, 7) ∧ order[184]? = some (9, 5)
      | .v2 => order.findIdx? (fun p => p.2 == 5) = some 311) ∧
    order.Nodup ∧ order.length = (match v with | .v1 => 208 | .v2 => 359) ∧
    (∀ r c, r < v.size → c < v.size → ((r, c) ∈ order ↔ builtCell v r c = .unset)) ∧
    (∀ r c, (r, c) ∈ order → r < v.size ∧ c < v.size) ∧
    order.take 4 = [(v.size - 1, v.size - 1), (v.size - 1, v.size - 2), (v.size - 2, v.size - 1), (v.size - 2, v.size - 2)] ∧
    order.getLast? = some (match v with | .v1 => (12, 0) | .v2 => (16, 0))

/-- R218: MX_BUILD, in every MXSTATE, writes all 625 cells and makes MXSTATE BUILT with the version, and changes nothing
else; an unsupported version leaves the matrix and MXSTAT unchanged. -/
def Obligations.MxBuildBuildsInEveryState : Prop :=
  ∀ s : State,
    (∀ v, supports s v → ∃ t, exec .mxBuild s = .next t ∧
      t = succeeded { s with matrix := t.matrix, mx := .built v } ∧
      t.readReg .mxstat = (match v with | .v1 => 0x1505#32 | .v2 => 0x1909#32) ∧
      (∀ r c, r < v.size → c < v.size → t.byteAt (cellOffset v r c) = some (cellByte (builtCell v r c))) ∧
      (∀ k, v.size * v.size ≤ k → k < 625 → t.byteAt (0x400 + k) = some 0x00#8) ∧
      ∀ a, a < 0x400 → t.byteAt a = s.byteAt a) ∧
    (unsupported s → exec .mxBuild s = .next (failed s 2#4 0x07#8))

/-- R222 with R220, R221: on a built matrix of CONFIG's version, with DATA and EC written, MX_PLACE puts bit k of the
supply into cell k of the order as Data, changes no other cell, and makes MXSTATE PLACED; no cell stays Unset; a DATA or EC byte
with no value faults UNINIT. The premise on the cells is what every BUILT state a run reaches meets (`State.Inv`). -/
def Obligations.MxPlacePlacesTheBitSupply : Prop :=
  ∀ (s : State) (v : Version), supports s v → s.mx = .built v → s.CellsOk →
    let cap := capacity v s.level
    let order := placementOrder v.size (mxbuild v)
    (∀ d e : List Byte, d.length = cap.dataCount → e.length = cap.ecCount → holds s 0x200 d → holds s 0x240 e →
      ∃ t, exec .mxPlace s = .next t ∧ t = succeeded { s with matrix := t.matrix, mx := .placed v } ∧
        (∀ k r c, order[k]? = some (r, c) →
          t.byteAt (cellOffset v r c) = some (cellByte (.data (supplyBit d e k)))) ∧
        (∀ r c, r < v.size → c < v.size → builtCell v r c ≠ .unset →
          t.byteAt (cellOffset v r c) = some (cellByte (builtCell v r c))) ∧
        (∀ r c, r < v.size → c < v.size → t.byteAt (cellOffset v r c) ≠ some (cellByte .unset)) ∧
        ∀ a, (a < 0x400 ∨ 0x400 + v.size * v.size ≤ a) → t.byteAt a = s.byteAt a) ∧
    (lacks s 0x200 cap.dataCount ∨ lacks s 0x240 cap.ecCount → exec .mxPlace s = .fault .uninit)

/-- R222: the four errors of MX_PLACE in their order; the matrix, DATA and EC are untouched. The layout errors have the
premise that the cells are those of a BUILT matrix. -/
def Obligations.MxPlaceReportsItsErrors : Prop :=
  ∀ s : State,
    (unsupported s → exec .mxPlace s = .next (failed s 2#4 0x08#8)) ∧
    (∀ v, supports s v → (∀ mv, s.mx ≠ .built mv) → exec .mxPlace s = .next (failed s 4#4 0x08#8)) ∧
    (supports s .v1 → s.mx = .built .v2 → s.CellsOk → exec .mxPlace s = .next (failed s 7#4 0x08#8)) ∧
    (supports s .v2 → s.mx = .built .v1 → s.CellsOk → exec .mxPlace s = .next (failed s 8#4 0x08#8))

/-! ### Masks -/

/-- R240: the eight predicates, at every row and column. -/
def Obligations.MaskPredicatesAreTheEightFormulas : Prop :=
  (∀ i j : Nat,
    (maskPredicate 0#3 i j = true ↔ (i + j) % 2 = 0) ∧ (maskPredicate 1#3 i j = true ↔ i % 2 = 0) ∧
    (maskPredicate 2#3 i j = true ↔ j % 3 = 0) ∧ (maskPredicate 3#3 i j = true ↔ (i + j) % 3 = 0) ∧
    (maskPredicate 4#3 i j = true ↔ (i / 2 + j / 3) % 2 = 0) ∧
    (maskPredicate 5#3 i j = true ↔ i * j % 2 + i * j % 3 = 0) ∧
    (maskPredicate 6#3 i j = true ↔ (i * j % 2 + i * j % 3) % 2 = 0) ∧
    (maskPredicate 7#3 i j = true ↔ ((i + j) % 2 + i * j % 3) % 2 = 0)) ∧
  ∀ m : BitVec 3, maskPredicate m 0 0 = true

/-- R241: masking inverts exactly the Data cells where the predicate holds, and masking twice changes nothing. -/
def Obligations.MaskingFlipsDataCellsAndIsAnInvolution : Prop :=
  ∀ (g : Grid) (m : BitVec 3),
    (∀ r c b, g.cell? r c = some (.data b) → (applyMask g m).cell? r c = some (.data (b ^^ maskPredicate m r c))) ∧
    (∀ r c k, g.cell? r c = some k → (∀ b, k ≠ .data b) → (applyMask g m).cell? r c = some k) ∧
    (∀ r c, g.cell? r c = none → (applyMask g m).cell? r c = none) ∧
    applyMask (applyMask g m) m = g

/-- R243, R244, R245, R246: the four penalty rules, by runs, positions and windows, on every square picture. -/
def Obligations.PenaltyRulesCountWhatTheySay : Prop :=
  ∀ (rows : List (List Bool)) (n : Nat), square rows n →
    pen1Of rows = ((lines rows n).map runScore).sum ∧
    pen2Of rows = 3 * ((List.range (n - 1)).map (fun r => (List.range (n - 1)).countP (fun c =>
      pixel rows r c == pixel rows r (c + 1) && pixel rows r c == pixel rows (r + 1) c &&
        pixel rows r c == pixel rows (r + 1) (c + 1)))).sum ∧
    pen3Of rows = 40 * ((lines rows n).map (fun l => windowCount sequenceA l + windowCount sequenceA' l)).sum ∧
    (pen4Of rows : Int) =
      10 * ((100 * (countCells n (pixel rows) : Int) - 50 * (n * n : Int)).natAbs / (5 * (n * n)) : Nat)

/-- R247: the score is the sum of the four components, and below 2^16 on every picture of at most 25 by 25. -/
def Obligations.PenaltiesStayBelowTheirBound : Prop :=
  (∀ p : Penalty, p.total = p.p1 + p.p2 + p.p3 + p.p4) ∧
  ∀ (g : Grid) (n : Nat), n ≤ 25 → square (picture g) n → ∀ m, (candidatePenalty g m).total < 2 ^ 16

/-- R249: on a PLACED matrix MASK_SCORE writes SCORE and PEN1..4 of its candidate, whatever CONFIG holds, writes no cell
and changes nothing else; in any other state it reports INVALID_STATE. The premise on the cells is what every PLACED state a run
reaches meets (`State.Inv`). -/
def Obligations.MaskScoreScoresItsCandidate : Prop :=
  ∀ (s : State) (m : BitVec 3),
    (∀ v, s.mx = .placed v → s.CellsOk → ∃ g, s.readGrid v = some g ∧ gridShows s v g ∧
      exec (.maskScore m) s = .next (succeeded { s with
        pen1 := BitVec.ofNat 32 (pen1Of (picture (applyMask g m)))
        pen2 := BitVec.ofNat 32 (pen2Of (picture (applyMask g m)))
        pen3 := BitVec.ofNat 32 (pen3Of (picture (applyMask g m)))
        pen4 := BitVec.ofNat 32 (pen4Of (picture (applyMask g m)))
        score := BitVec.ofNat 32 (pen1Of (picture (applyMask g m)) + pen2Of (picture (applyMask g m)) +
          pen3Of (picture (applyMask g m)) + pen4Of (picture (applyMask g m))) })) ∧
    ((∀ v, s.mx ≠ .placed v) → exec (.maskScore m) s = .next (failed s 4#4 0x09#8))

/-- R250: on a PLACED matrix MASK_SELECT writes the eight scores, the first mask of least score with its score and
components, the masked matrix with the format word of CONFIG.ECC and that mask, and MXSTATE MASKED, and changes nothing else; its
two errors. -/
def Obligations.MaskSelectKeepsTheFirstLeastMask : Prop :=
  ∀ s : State,
    (∀ v mv, supports s v → s.mx = .placed mv → s.CellsOk → ∃ g t, s.readGrid mv = some g ∧ gridShows s mv g ∧
      exec .maskSelect s = .next t ∧
      t = succeeded { s with matrix := t.matrix, mx := .masked mv, mask := t.mask, score := t.score, scores := t.scores,
                             pen1 := t.pen1, pen2 := t.pen2, pen3 := t.pen3, pen4 := t.pen4 } ∧
      (∀ k : Fin 8, t.scores[k.val] = BitVec.ofNat 32 (candidatePenalty g (BitVec.ofNat 3 k.val)).total) ∧
      (∀ k : BitVec 3, (candidatePenalty g t.mask).total ≤ (candidatePenalty g k).total ∧
        (k.toNat < t.mask.toNat → (candidatePenalty g t.mask).total < (candidatePenalty g k).total)) ∧
      t.score = BitVec.ofNat 32 (candidatePenalty g t.mask).total ∧
      t.pen1 = BitVec.ofNat 32 (candidatePenalty g t.mask).p1 ∧ t.pen2 = BitVec.ofNat 32 (candidatePenalty g t.mask).p2 ∧
      t.pen3 = BitVec.ofNat 32 (candidatePenalty g t.mask).p3 ∧ t.pen4 = BitVec.ofNat 32 (candidatePenalty g t.mask).p4 ∧
      (∀ r c k, g.cell? r c = some k → t.byteAt (cellOffset mv r c) = some (cellByte
        (match formatBitAt mv.size r c with
          | some i => .reserved ((formatWord s.level t.mask).getLsbD i)
          | none => k.maskWith (maskPredicate t.mask r c)))) ∧
      ∀ a, (a < 0x400 ∨ 0x400 + mv.size * mv.size ≤ a) → t.byteAt a = s.byteAt a) ∧
    (unsupported s → exec .maskSelect s = .next (failed s 2#4 0x0A#8)) ∧
    (∀ v, supports s v → (∀ mv, s.mx ≠ .placed mv) → exec .maskSelect s = .next (failed s 4#4 0x0A#8))

/-- R251, re-scoring: on one PLACED state, MASK_SCORE of mask k writes the score MASK_SELECT writes to SCORESk, and the
same components when k is the selected mask. -/
def Obligations.RescoringReproducesTheSelectedScores : Prop :=
  ∀ (s t u : State) (v mv : Version) (m : BitVec 3), supports s v → s.mx = .placed mv →
    exec .maskSelect s = .next t → exec (.maskScore m) s = .next u →
    u.score = t.scores[m.toNat] ∧
    (m = t.mask → u.score = t.score ∧ u.pen1 = t.pen1 ∧ u.pen2 = t.pen2 ∧ u.pen3 = t.pen3 ∧ u.pen4 = t.pen4)

/-! ### NOP, ENCODE and all commands -/

/-- R270: NOP completes and changes only STATUS, ERRCODE and ERRINFO. -/
def Obligations.NopOnlyCompletes : Prop := ∀ s : State, exec .nop s = .next (succeeded s)

/-- R271, R272: if the five commands of ENCODE's stages, run one after the other, all complete without error, ENCODE
answers the same final state. -/
def Obligations.EncodeEqualsItsStagesInSequence : Prop :=
  ∀ s s1 s2 s3 s4 s5 : State, s.err = false →
    exec .bsBuild s = .next s1 → s1.err = false → exec (.rsEnc false) s1 = .next s2 → s2.err = false →
    exec .mxBuild s2 = .next s3 → s3.err = false → exec .mxPlace s3 = .next s4 → s4.err = false →
    exec .maskSelect s4 = .next s5 → s5.err = false → exec .encode s = .next s5

/-- R272: from any MXSTATE, ENCODE of a payload that fits completes with the codewords of its stages and a MASKED matrix,
leaving RESULT, TEXT and GEN as they were; its two errors, reported at stage 0x06, change nothing else; a payload byte with no
value faults UNINIT. -/
def Obligations.EncodeCompletesFromAnyState : Prop :=
  ∀ s : State,
    (∀ v, supports s v →
      let cap := capacity v s.level
      let n := s.arg0.toNat
      (8 * cap.dataCount < 12 + 8 * n → exec .encode s = .next (failed s 6#4 0x06#8)) ∧
      (12 + 8 * n ≤ 8 * cap.dataCount → ∀ p : List Byte, p.length = n → holds s 0x100 p → ∃ t, exec .encode s = .next t ∧
        t = succeeded { s with
          mem := t.mem, dlen := BitVec.ofNat 8 cap.dataCount, bitcnt := BitVec.ofNat 16 (12 + 8 * n),
          eclen := BitVec.ofNat 8 cap.ecCount, matrix := t.matrix, mx := .masked v, mask := t.mask, score := t.score,
          scores := t.scores, pen1 := t.pen1, pen2 := t.pen2, pen3 := t.pen3, pen4 := t.pen4 } ∧
        t.CellsOk ∧
        ∀ a, a < 0x400 → t.byteAt a =
          if 0x200 ≤ a ∧ a < 0x200 + cap.dataCount then (dataCodewords p cap.dataCount)[a - 0x200]?
          else if 0x240 ≤ a ∧ a < 0x240 + cap.ecCount then
            (rsrem (dataCodewords p cap.dataCount) cap.ecCount)[a - 0x240]?
          else s.byteAt a) ∧
      (12 + 8 * n ≤ 8 * cap.dataCount → lacks s 0x100 n → exec .encode s = .fault .uninit)) ∧
    (unsupported s → exec .encode s = .next (failed s 2#4 0x06#8))

/-- R272: ENCODE's results are fully determined by the payload, its length, the version and the level: two states that
agree on those get the same matrix, mask, scores, components, counts and codewords, whatever else they hold. -/
def Obligations.EncodeDependsOnlyOnPayloadAndConfig : Prop :=
  ∀ s s' t : State, s.version = s'.version → s.ecc = s'.ecc → s.arg0 = s'.arg0 →
    (∀ k, k < s.arg0.toNat → s.byteAt (0x100 + k) = s'.byteAt (0x100 + k)) →
    exec .encode s = .next t → t.errCode = 0#4 →
    ∃ t', exec .encode s' = .next t' ∧ t'.errCode = 0#4 ∧ t'.matrix = t.matrix ∧ t'.mx = t.mx ∧ t'.mask = t.mask ∧
      t'.score = t.score ∧ t'.scores = t.scores ∧ t'.pen1 = t.pen1 ∧ t'.pen2 = t.pen2 ∧ t'.pen3 = t.pen3 ∧
      t'.pen4 = t.pen4 ∧ t'.dlen = t.dlen ∧ t'.eclen = t.eclen ∧ t'.bitcnt = t.bitcnt ∧
      (∀ k, k < t.dlen.toNat → t'.byteAt (0x200 + k) = t.byteAt (0x200 + k)) ∧
      ∀ k, k < t.eclen.toNat → t'.byteAt (0x240 + k) = t.byteAt (0x240 + k)

/-- R303, R309: every error of every command is precise: a command that fails changes only STATUS, ERRCODE and ERRINFO,
with a code of R300 and the stage that failed. -/
def Obligations.FailedCommandsChangeOnlyStatusAndErrors : Prop :=
  ∀ (i : Instr) (s t : State), s.err = false → exec i s = .next t → t.err = true →
    ∃ code : BitVec 4, 2 ≤ code.toNat ∧ code.toNat ≤ 8 ∧ t = failed s code (failingStage i)

/-- Every command ends: it completes or fails with DONE set and BUSY clear (R302, R303), or faults UNINIT, which only the
commands that read a buffer can do while the cells are as MXSTATE says (R312). In the other states, which no run reaches, a
matrix command may also fault UNINIT on a cell with no value: that is the model's choice (log 11). -/
def Obligations.EveryCommandEndsOrFaultsUninit : Prop :=
  ∀ (i : Instr) (s : State),
    ((∃ t, exec i s = .next t ∧ t.pending = false ∧ t.done = true) ∨ exec i s = .fault .uninit) ∧
    (s.CellsOk → exec i s = .fault .uninit → i ∈ [.rsEnc false, .rsEnc true, .bsBuild, .mxPlace, .encode])

/-- The registers no command writes, and the writers of the others (R21, R28, R29, R32 to R39). -/
def Obligations.CommandsWriteOnlyTheirRegisters : Prop :=
  ∀ (i : Instr) (s t : State), exec i s = .next t →
    (t.irqen = s.irqen ∧ t.ovr = s.ovr ∧ t.cmdl = s.cmdl ∧ t.version = s.version ∧ t.ecc = s.ecc ∧ t.arg0 = s.arg0 ∧
      t.arg1 = s.arg1 ∧ t.host = s.host ∧ t.draws = s.draws ∧ t.delay = s.delay ∧ t.latencies = s.latencies) ∧
    (writesResult i = false → t.result = s.result) ∧
    (i ∉ [.bsBuild, .encode] → t.dlen = s.dlen ∧ t.bitcnt = s.bitcnt) ∧
    (i ∉ [.rsEnc false, .rsEnc true, .encode] → t.eclen = s.eclen) ∧
    (i ∉ [.mxBuild, .mxPlace, .maskSelect, .encode] → t.mx = s.mx) ∧
    (i ∉ [.maskSelect, .encode] → t.mask = s.mask ∧ t.scores = s.scores) ∧
    ((∀ m, i ≠ .maskScore m) → i ∉ [.maskSelect, .encode] →
      t.score = s.score ∧ t.pen1 = s.pen1 ∧ t.pen2 = s.pen2 ∧ t.pen3 = s.pen3 ∧ t.pen4 = s.pen4)

/-- Which commands can change a byte of each window (R41 to R45, R353): none changes TEXT; DATA changes only below D,
EC only below its count, GEN only by RS_GEN, MATRIX only by its builders. -/
def Obligations.CommandsWriteOnlyTheirBuffers : Prop :=
  ∀ (i : Instr) (s t : State) (a : Nat), exec i s = .next t →
    (a < 0x200 → t.byteAt a = s.byteAt a) ∧
    (0x200 ≤ a → a < 0x240 → i ∉ [.bsBuild, .encode] ∨ 0x200 + t.dlen.toNat ≤ a → t.byteAt a = s.byteAt a) ∧
    (0x240 ≤ a → a < 0x280 → i ∉ [.rsEnc false, .rsEnc true, .encode] ∨ 0x240 + t.eclen.toNat ≤ a →
      t.byteAt a = s.byteAt a) ∧
    (0x280 ≤ a → a < 0x2C0 → i ∉ [.rsGen false, .rsGen true] ∨ 0x280 + t.result.toNat ≤ a → t.byteAt a = s.byteAt a) ∧
    (0x2C0 ≤ a → i ∉ [.mxBuild, .mxPlace, .maskSelect, .encode] → t.byteAt a = s.byteAt a)
end

