-- ==== Sys2Proof/Laws/Memory.lean ====
section
/-! SUPPORT. The laws of the byte memory: read after write, the canonical form, and bytes written and read in a row. -/

namespace Sys2Proof.Machine

/-! ### One byte -/

theorem Memory.get?_set_self (m : Memory) (a : Nat) (v : Byte) : (m.set a v).get? a = some v := by
  induction m with
  | nil => simp [Memory.set, Memory.get?]
  | cons p m ih =>
    obtain ⟨b, w⟩ := p
    simp only [Memory.set]
    split
    · simp [Memory.get?]
    · split
      · simp [Memory.get?]
      · simp_all [Memory.get?]

theorem Memory.get?_set_ne (m : Memory) {a b : Nat} (v : Byte) (h : b ≠ a) : (m.set a v).get? b = m.get? b := by
  induction m with
  | nil => simp [Memory.set, Memory.get?, h]
  | cons p m ih =>
    obtain ⟨c, w⟩ := p
    simp only [Memory.set]
    split
    · simp [Memory.get?, h]
    · split
      · rename_i hac
        subst hac
        simp [Memory.get?, h]
      · simp [Memory.get?, ih]

theorem Memory.get?_set (m : Memory) (a b : Nat) (v : Byte) :
    (m.set a v).get? b = if b = a then some v else m.get? b := by
  split
  · subst b
    exact m.get?_set_self a v
  · exact m.get?_set_ne v ‹_›

/-! ### The canonical form -/

theorem Memory.mem_set {m : Memory} {a : Nat} {v : Byte} {p : Host.Cell} (h : p ∈ m.set a v) :
    p = (a, v) ∨ p ∈ m := by
  induction m with
  | nil => exact .inl (by simpa [Memory.set] using h)
  | cons q m ih =>
    obtain ⟨b, w⟩ := q
    simp only [Memory.set] at h
    split at h
    · simpa using h
    · split at h
      · rcases List.mem_cons.mp h with h | h
        · exact .inl h
        · exact .inr (List.mem_cons_of_mem _ h)
      · rcases List.mem_cons.mp h with h | h
        · exact .inr (by simp [h])
        · exact (ih h).imp_right (List.mem_cons_of_mem _)

theorem Memory.wf_nil : Memory.wf [] := ⟨List.Pairwise.nil, by simp⟩

/-- A write inside the buffers keeps the canonical form. -/
theorem Memory.wf_set {m : Memory} {a : Nat} {v : Byte} (hm : m.wf) (ha : isBufferOffset a = true) :
    (m.set a v).wf := by
  refine ⟨?_, fun p hp => (Memory.mem_set hp).elim (fun h => by simpa [h] using ha) (hm.2 p)⟩
  obtain ⟨hs, -⟩ := hm
  induction m with
  | nil => simp [Memory.set]
  | cons q m ih =>
    obtain ⟨b, w⟩ := q
    obtain ⟨hb, hs'⟩ := List.pairwise_cons.mp hs
    simp only [Memory.set]
    split
    · refine List.pairwise_cons.mpr ⟨fun p hp => ?_, hs⟩
      rcases List.mem_cons.mp hp with rfl | hp
      · assumption
      · have := hb p hp
        simp only at this ⊢
        omega
    · split
      · subst b
        exact List.pairwise_cons.mpr ⟨hb, hs'⟩
      · refine List.pairwise_cons.mpr ⟨fun p hp => ?_, ih hs'⟩
        rcases Memory.mem_set hp with rfl | hp
        · simp only
          omega
        · exact hb p hp

/-- A row of bytes written inside the buffers keeps the canonical form. -/
theorem Memory.wf_setAll {vs : List Byte} : ∀ {m : Memory} {a : Nat}, m.wf → 0x100 ≤ a → a + vs.length ≤ 0x2C0 →
    (m.setAll a vs).wf := by
  induction vs with
  | nil => exact fun hm _ _ => hm
  | cons v vs ih =>
    intro m a hm h1 h2
    simp only [List.length_cons] at h2
    refine ih (Memory.wf_set hm ?_) (by omega) (by omega)
    simp only [isBufferOffset, Bool.and_eq_true, decide_eq_true_eq]
    omega

/-- No byte outside the buffers is listed. -/
theorem Memory.get?_isBufferOffset {m : Memory} (hm : m.wf) {a : Nat} {v : Byte} (h : m.get? a = some v) :
    isBufferOffset a = true := by
  obtain ⟨-, hr⟩ := hm
  induction m with
  | nil => simp [Memory.get?] at h
  | cons p m ih =>
    simp only [Memory.get?] at h
    split at h
    · rename_i hab
      simpa [hab] using hr _ (by simp)
    · exact ih h fun p hp => hr p (List.mem_cons_of_mem _ hp)

/-! ### Bytes in a row -/

/-- What every byte reads as after a row of bytes is written. -/
theorem Memory.get?_setAll (vs : List Byte) : ∀ (m : Memory) (a b : Nat),
    (m.setAll a vs).get? b = if a ≤ b ∧ b < a + vs.length then vs[b - a]? else m.get? b := by
  induction vs with
  | nil =>
    intro m a b
    simp only [Memory.setAll, List.length_nil, Nat.add_zero]
    rw [if_neg (by omega)]
  | cons v vs ih =>
    intro m a b
    simp only [Memory.setAll, ih, Memory.get?_set, List.length_cons]
    by_cases hab : b = a
    · subst b
      simp
    · by_cases hin : a + 1 ≤ b ∧ b < a + 1 + vs.length
      · rw [if_pos hin, if_pos (by omega), show b - a = (b - (a + 1)) + 1 by omega, List.getElem?_cons_succ]
      · rw [if_neg hin, if_neg hab, if_neg (by omega)]

/-- What reading a row of bytes answers. -/
theorem Memory.readAll_eq_some {m : Memory} : ∀ {n a : Nat} {vs : List Byte},
    m.readAll a n = some vs ↔ vs.length = n ∧ ∀ k, k < n → m.get? (a + k) = vs[k]? := by
  intro n
  induction n with
  | zero =>
    intro a vs
    rw [Memory.readAll, Option.some_inj, eq_comm, ← List.length_eq_zero_iff]
    simp
  | succ n ih =>
    intro a vs
    simp only [Memory.readAll]
    constructor
    · intro h
      split at h
      · rename_i v ws hv hws
        obtain ⟨hl, hk⟩ := ih.mp hws
        cases h
        refine ⟨by simp [hl], fun k hkn => ?_⟩
        cases k with
        | zero => simpa using hv
        | succ k => simpa [Nat.add_assoc, Nat.add_comm 1] using hk k (by omega)
      · cases h
    · rintro ⟨hl, hk⟩
      cases vs with
      | nil => simp at hl
      | cons v ws =>
        have h0 : m.get? a = some v := by simpa using hk 0 (by omega)
        have hws : m.readAll (a + 1) n = some ws :=
          ih.mpr ⟨by simpa using hl, fun k hkn => by
            simpa [Nat.add_assoc, Nat.add_comm 1] using hk (k + 1) (by omega)⟩
        simp [h0, hws]

/-- Reading a row of bytes fails only on a byte that holds no value (R312). -/
theorem Memory.readAll_eq_none {m : Memory} : ∀ {n a : Nat},
    m.readAll a n = none ↔ ∃ k, k < n ∧ m.get? (a + k) = none := by
  intro n
  induction n with
  | zero => simp [Memory.readAll]
  | succ n ih =>
    intro a
    simp only [Memory.readAll]
    constructor
    · intro h
      split at h
      · cases h
      · rename_i hno
        by_cases h0 : m.get? a = none
        · exact ⟨0, by omega, by simpa using h0⟩
        · obtain ⟨v, hv⟩ := Option.ne_none_iff_exists'.mp h0
          have hr : m.readAll (a + 1) n = none := by
            cases hr : m.readAll (a + 1) n with
            | none => rfl
            | some ws => exact (hno v ws hv hr).elim
          obtain ⟨k, hk, hkn⟩ := ih.mp hr
          exact ⟨k + 1, by omega, by rw [← hkn]; congr 1; omega⟩
    · rintro ⟨k, hk, hkn⟩
      cases k with
      | zero =>
        have h0 : m.get? a = none := by simpa using hkn
        simp [h0]
      | succ k =>
        have hr : m.readAll (a + 1) n = none := ih.mpr ⟨k, by omega, by rw [← hkn]; congr 1; omega⟩
        simp [hr]

/-- Reading back the row that was just written. -/
theorem Memory.readAll_setAll (m : Memory) (a : Nat) (vs : List Byte) :
    (m.setAll a vs).readAll a vs.length = some vs :=
  Memory.readAll_eq_some.mpr ⟨rfl, fun k hk => by
    rw [Memory.get?_setAll, if_pos (by omega), Nat.add_sub_cancel_left]⟩

/-- A row of bytes written elsewhere does not change what is read. -/
theorem Memory.readAll_setAll_disjoint (m : Memory) {a b n : Nat} {vs : List Byte}
    (h : b + vs.length ≤ a ∨ a + n ≤ b) : (m.setAll b vs).readAll a n = m.readAll a n := by
  have hget : ∀ k, k < n → (m.setAll b vs).get? (a + k) = m.get? (a + k) := fun k hk => by
    rw [Memory.get?_setAll, if_neg (by omega)]
  cases hr : m.readAll a n with
  | none =>
    obtain ⟨k, hk, hkn⟩ := Memory.readAll_eq_none.mp hr
    exact Memory.readAll_eq_none.mpr ⟨k, hk, (hget k hk).trans hkn⟩
  | some ws =>
    obtain ⟨hl, hk⟩ := Memory.readAll_eq_some.mp hr
    exact Memory.readAll_eq_some.mpr ⟨hl, fun k hkn => (hget k hkn).trans (hk k hkn)⟩

/-- The bytes of a bus value (R64). -/
theorem bytesOfWord_length (v : Word) (n : Nat) : (bytesOfWord v n).length = n := by
  induction n generalizing v with
  | zero => rfl
  | succ n ih => simp [bytesOfWord, ih]

/-- Byte k of a bus value is its bits 8k+7 : 8k (R64). -/
theorem bytesOfWord_getElem? (v : Word) (n k : Nat) (h : k < n) :
    (bytesOfWord v n)[k]? = some ((v >>> (8 * k)).setWidth 8) := by
  induction n generalizing v k with
  | zero => omega
  | succ n ih =>
    cases k with
    | zero => simp [bytesOfWord]
    | succ k =>
      rw [bytesOfWord, List.getElem?_cons_succ, ih _ _ (by omega), ← BitVec.shiftRight_add]
      congr 3
      omega

end Sys2Proof.Machine
end

