-- ==== Sys2Proof/Laws/State.lean ====
section
/-! SUPPORT. What each state update of the machine makes of each field: one lemma per field per update, true by rfl. -/

namespace Sys2Proof.Machine

/-! ### `State.complete` -/

@[simp] theorem State.complete_irqen (s : State) : s.complete.irqen = s.irqen := rfl

@[simp] theorem State.complete_done (s : State) : s.complete.done = true := rfl

@[simp] theorem State.complete_err (s : State) : s.complete.err = s.err := rfl

@[simp] theorem State.complete_ovr (s : State) : s.complete.ovr = s.ovr := rfl

@[simp] theorem State.complete_pending (s : State) : s.complete.pending = false := rfl

@[simp] theorem State.complete_cmdl (s : State) : s.complete.cmdl = s.cmdl := rfl

@[simp] theorem State.complete_version (s : State) : s.complete.version = s.version := rfl

@[simp] theorem State.complete_ecc (s : State) : s.complete.ecc = s.ecc := rfl

@[simp] theorem State.complete_arg0 (s : State) : s.complete.arg0 = s.arg0 := rfl

@[simp] theorem State.complete_arg1 (s : State) : s.complete.arg1 = s.arg1 := rfl

@[simp] theorem State.complete_result (s : State) : s.complete.result = s.result := rfl

@[simp] theorem State.complete_errCode (s : State) : s.complete.errCode = 0#4 := rfl

@[simp] theorem State.complete_errOp (s : State) : s.complete.errOp = 0#8 := rfl

@[simp] theorem State.complete_errStage (s : State) : s.complete.errStage = 0#8 := rfl

@[simp] theorem State.complete_dlen (s : State) : s.complete.dlen = s.dlen := rfl

@[simp] theorem State.complete_eclen (s : State) : s.complete.eclen = s.eclen := rfl

@[simp] theorem State.complete_bitcnt (s : State) : s.complete.bitcnt = s.bitcnt := rfl

@[simp] theorem State.complete_mx (s : State) : s.complete.mx = s.mx := rfl

@[simp] theorem State.complete_mask (s : State) : s.complete.mask = s.mask := rfl

@[simp] theorem State.complete_score (s : State) : s.complete.score = s.score := rfl

@[simp] theorem State.complete_scores (s : State) : s.complete.scores = s.scores := rfl

@[simp] theorem State.complete_pen1 (s : State) : s.complete.pen1 = s.pen1 := rfl

@[simp] theorem State.complete_pen2 (s : State) : s.complete.pen2 = s.pen2 := rfl

@[simp] theorem State.complete_pen3 (s : State) : s.complete.pen3 = s.pen3 := rfl

@[simp] theorem State.complete_pen4 (s : State) : s.complete.pen4 = s.pen4 := rfl

@[simp] theorem State.complete_mem (s : State) : s.complete.mem = s.mem := rfl

@[simp] theorem State.complete_matrix (s : State) : s.complete.matrix = s.matrix := rfl

@[simp] theorem State.complete_host (s : State) : s.complete.host = s.host := rfl

@[simp] theorem State.complete_draws (s : State) : s.complete.draws = s.draws := rfl

@[simp] theorem State.complete_delay (s : State) : s.complete.delay = s.delay := rfl

@[simp] theorem State.complete_latencies (s : State) : s.complete.latencies = s.latencies := rfl

/-! ### `State.raise` -/

@[simp] theorem State.raise_irqen (s : State) (e : ErrCode) (st : Byte) : (s.raise e st).irqen = s.irqen := rfl

@[simp] theorem State.raise_done (s : State) (e : ErrCode) (st : Byte) : (s.raise e st).done = true := rfl

@[simp] theorem State.raise_err (s : State) (e : ErrCode) (st : Byte) : (s.raise e st).err = true := rfl

@[simp] theorem State.raise_ovr (s : State) (e : ErrCode) (st : Byte) : (s.raise e st).ovr = s.ovr := rfl

@[simp] theorem State.raise_pending (s : State) (e : ErrCode) (st : Byte) : (s.raise e st).pending = false := rfl

@[simp] theorem State.raise_cmdl (s : State) (e : ErrCode) (st : Byte) : (s.raise e st).cmdl = s.cmdl := rfl

@[simp] theorem State.raise_version (s : State) (e : ErrCode) (st : Byte) : (s.raise e st).version = s.version := rfl

@[simp] theorem State.raise_ecc (s : State) (e : ErrCode) (st : Byte) : (s.raise e st).ecc = s.ecc := rfl

@[simp] theorem State.raise_arg0 (s : State) (e : ErrCode) (st : Byte) : (s.raise e st).arg0 = s.arg0 := rfl

@[simp] theorem State.raise_arg1 (s : State) (e : ErrCode) (st : Byte) : (s.raise e st).arg1 = s.arg1 := rfl

@[simp] theorem State.raise_result (s : State) (e : ErrCode) (st : Byte) : (s.raise e st).result = s.result := rfl

@[simp] theorem State.raise_errCode (s : State) (e : ErrCode) (st : Byte) : (s.raise e st).errCode = e.code := rfl

@[simp] theorem State.raise_errOp (s : State) (e : ErrCode) (st : Byte) : (s.raise e st).errOp = s.cmdl.extractLsb' 0 8 := rfl

@[simp] theorem State.raise_errStage (s : State) (e : ErrCode) (st : Byte) : (s.raise e st).errStage = st := rfl

@[simp] theorem State.raise_dlen (s : State) (e : ErrCode) (st : Byte) : (s.raise e st).dlen = s.dlen := rfl

@[simp] theorem State.raise_eclen (s : State) (e : ErrCode) (st : Byte) : (s.raise e st).eclen = s.eclen := rfl

@[simp] theorem State.raise_bitcnt (s : State) (e : ErrCode) (st : Byte) : (s.raise e st).bitcnt = s.bitcnt := rfl

@[simp] theorem State.raise_mx (s : State) (e : ErrCode) (st : Byte) : (s.raise e st).mx = s.mx := rfl

@[simp] theorem State.raise_mask (s : State) (e : ErrCode) (st : Byte) : (s.raise e st).mask = s.mask := rfl

@[simp] theorem State.raise_score (s : State) (e : ErrCode) (st : Byte) : (s.raise e st).score = s.score := rfl

@[simp] theorem State.raise_scores (s : State) (e : ErrCode) (st : Byte) : (s.raise e st).scores = s.scores := rfl

@[simp] theorem State.raise_pen1 (s : State) (e : ErrCode) (st : Byte) : (s.raise e st).pen1 = s.pen1 := rfl

@[simp] theorem State.raise_pen2 (s : State) (e : ErrCode) (st : Byte) : (s.raise e st).pen2 = s.pen2 := rfl

@[simp] theorem State.raise_pen3 (s : State) (e : ErrCode) (st : Byte) : (s.raise e st).pen3 = s.pen3 := rfl

@[simp] theorem State.raise_pen4 (s : State) (e : ErrCode) (st : Byte) : (s.raise e st).pen4 = s.pen4 := rfl

@[simp] theorem State.raise_mem (s : State) (e : ErrCode) (st : Byte) : (s.raise e st).mem = s.mem := rfl

@[simp] theorem State.raise_matrix (s : State) (e : ErrCode) (st : Byte) : (s.raise e st).matrix = s.matrix := rfl

@[simp] theorem State.raise_host (s : State) (e : ErrCode) (st : Byte) : (s.raise e st).host = s.host := rfl

@[simp] theorem State.raise_draws (s : State) (e : ErrCode) (st : Byte) : (s.raise e st).draws = s.draws := rfl

@[simp] theorem State.raise_delay (s : State) (e : ErrCode) (st : Byte) : (s.raise e st).delay = s.delay := rfl

@[simp] theorem State.raise_latencies (s : State) (e : ErrCode) (st : Byte) : (s.raise e st).latencies = s.latencies := rfl

/-! ### `State.latch` -/

@[simp] theorem State.latch_irqen (s : State) (w : Word) : (s.latch w).irqen = s.irqen := rfl

@[simp] theorem State.latch_done (s : State) (w : Word) : (s.latch w).done = false := rfl

@[simp] theorem State.latch_err (s : State) (w : Word) : (s.latch w).err = false := rfl

@[simp] theorem State.latch_ovr (s : State) (w : Word) : (s.latch w).ovr = s.ovr := rfl

@[simp] theorem State.latch_pending (s : State) (w : Word) : (s.latch w).pending = true := rfl

@[simp] theorem State.latch_cmdl (s : State) (w : Word) : (s.latch w).cmdl = w := rfl

@[simp] theorem State.latch_version (s : State) (w : Word) : (s.latch w).version = s.version := rfl

@[simp] theorem State.latch_ecc (s : State) (w : Word) : (s.latch w).ecc = s.ecc := rfl

@[simp] theorem State.latch_arg0 (s : State) (w : Word) : (s.latch w).arg0 = s.arg0 := rfl

@[simp] theorem State.latch_arg1 (s : State) (w : Word) : (s.latch w).arg1 = s.arg1 := rfl

@[simp] theorem State.latch_result (s : State) (w : Word) : (s.latch w).result = s.result := rfl

@[simp] theorem State.latch_errCode (s : State) (w : Word) : (s.latch w).errCode = s.errCode := rfl

@[simp] theorem State.latch_errOp (s : State) (w : Word) : (s.latch w).errOp = s.errOp := rfl

@[simp] theorem State.latch_errStage (s : State) (w : Word) : (s.latch w).errStage = s.errStage := rfl

@[simp] theorem State.latch_dlen (s : State) (w : Word) : (s.latch w).dlen = s.dlen := rfl

@[simp] theorem State.latch_eclen (s : State) (w : Word) : (s.latch w).eclen = s.eclen := rfl

@[simp] theorem State.latch_bitcnt (s : State) (w : Word) : (s.latch w).bitcnt = s.bitcnt := rfl

@[simp] theorem State.latch_mx (s : State) (w : Word) : (s.latch w).mx = s.mx := rfl

@[simp] theorem State.latch_mask (s : State) (w : Word) : (s.latch w).mask = s.mask := rfl

@[simp] theorem State.latch_score (s : State) (w : Word) : (s.latch w).score = s.score := rfl

@[simp] theorem State.latch_scores (s : State) (w : Word) : (s.latch w).scores = s.scores := rfl

@[simp] theorem State.latch_pen1 (s : State) (w : Word) : (s.latch w).pen1 = s.pen1 := rfl

@[simp] theorem State.latch_pen2 (s : State) (w : Word) : (s.latch w).pen2 = s.pen2 := rfl

@[simp] theorem State.latch_pen3 (s : State) (w : Word) : (s.latch w).pen3 = s.pen3 := rfl

@[simp] theorem State.latch_pen4 (s : State) (w : Word) : (s.latch w).pen4 = s.pen4 := rfl

@[simp] theorem State.latch_mem (s : State) (w : Word) : (s.latch w).mem = s.mem := rfl

@[simp] theorem State.latch_matrix (s : State) (w : Word) : (s.latch w).matrix = s.matrix := rfl

@[simp] theorem State.latch_host (s : State) (w : Word) : (s.latch w).host = s.host := rfl

@[simp] theorem State.latch_draws (s : State) (w : Word) : (s.latch w).draws = s.draws := rfl

@[simp] theorem State.latch_delay (s : State) (w : Word) : (s.latch w).delay = s.delay := rfl

@[simp] theorem State.latch_latencies (s : State) (w : Word) : (s.latch w).latencies = s.latencies := rfl

/-! ### `State.writeGrid` -/

@[simp] theorem State.writeGrid_irqen (s : State) (g : Grid) : (s.writeGrid g).irqen = s.irqen := rfl

@[simp] theorem State.writeGrid_done (s : State) (g : Grid) : (s.writeGrid g).done = s.done := rfl

@[simp] theorem State.writeGrid_err (s : State) (g : Grid) : (s.writeGrid g).err = s.err := rfl

@[simp] theorem State.writeGrid_ovr (s : State) (g : Grid) : (s.writeGrid g).ovr = s.ovr := rfl

@[simp] theorem State.writeGrid_pending (s : State) (g : Grid) : (s.writeGrid g).pending = s.pending := rfl

@[simp] theorem State.writeGrid_cmdl (s : State) (g : Grid) : (s.writeGrid g).cmdl = s.cmdl := rfl

@[simp] theorem State.writeGrid_version (s : State) (g : Grid) : (s.writeGrid g).version = s.version := rfl

@[simp] theorem State.writeGrid_ecc (s : State) (g : Grid) : (s.writeGrid g).ecc = s.ecc := rfl

@[simp] theorem State.writeGrid_arg0 (s : State) (g : Grid) : (s.writeGrid g).arg0 = s.arg0 := rfl

@[simp] theorem State.writeGrid_arg1 (s : State) (g : Grid) : (s.writeGrid g).arg1 = s.arg1 := rfl

@[simp] theorem State.writeGrid_result (s : State) (g : Grid) : (s.writeGrid g).result = s.result := rfl

@[simp] theorem State.writeGrid_errCode (s : State) (g : Grid) : (s.writeGrid g).errCode = s.errCode := rfl

@[simp] theorem State.writeGrid_errOp (s : State) (g : Grid) : (s.writeGrid g).errOp = s.errOp := rfl

@[simp] theorem State.writeGrid_errStage (s : State) (g : Grid) : (s.writeGrid g).errStage = s.errStage := rfl

@[simp] theorem State.writeGrid_dlen (s : State) (g : Grid) : (s.writeGrid g).dlen = s.dlen := rfl

@[simp] theorem State.writeGrid_eclen (s : State) (g : Grid) : (s.writeGrid g).eclen = s.eclen := rfl

@[simp] theorem State.writeGrid_bitcnt (s : State) (g : Grid) : (s.writeGrid g).bitcnt = s.bitcnt := rfl

@[simp] theorem State.writeGrid_mx (s : State) (g : Grid) : (s.writeGrid g).mx = s.mx := rfl

@[simp] theorem State.writeGrid_mask (s : State) (g : Grid) : (s.writeGrid g).mask = s.mask := rfl

@[simp] theorem State.writeGrid_score (s : State) (g : Grid) : (s.writeGrid g).score = s.score := rfl

@[simp] theorem State.writeGrid_scores (s : State) (g : Grid) : (s.writeGrid g).scores = s.scores := rfl

@[simp] theorem State.writeGrid_pen1 (s : State) (g : Grid) : (s.writeGrid g).pen1 = s.pen1 := rfl

@[simp] theorem State.writeGrid_pen2 (s : State) (g : Grid) : (s.writeGrid g).pen2 = s.pen2 := rfl

@[simp] theorem State.writeGrid_pen3 (s : State) (g : Grid) : (s.writeGrid g).pen3 = s.pen3 := rfl

@[simp] theorem State.writeGrid_pen4 (s : State) (g : Grid) : (s.writeGrid g).pen4 = s.pen4 := rfl

@[simp] theorem State.writeGrid_mem (s : State) (g : Grid) : (s.writeGrid g).mem = s.mem := rfl

@[simp] theorem State.writeGrid_matrix (s : State) (g : Grid) : (s.writeGrid g).matrix = overlay g.flatten s.matrix := rfl

@[simp] theorem State.writeGrid_host (s : State) (g : Grid) : (s.writeGrid g).host = s.host := rfl

@[simp] theorem State.writeGrid_draws (s : State) (g : Grid) : (s.writeGrid g).draws = s.draws := rfl

@[simp] theorem State.writeGrid_delay (s : State) (g : Grid) : (s.writeGrid g).delay = s.delay := rfl

@[simp] theorem State.writeGrid_latencies (s : State) (g : Grid) : (s.writeGrid g).latencies = s.latencies := rfl

/-! ### `State.writeBuffer` -/

@[simp] theorem State.writeBuffer_irqen (s : State) (b : BufName) (vs : List Byte) : (s.writeBuffer b vs).irqen = s.irqen := rfl

@[simp] theorem State.writeBuffer_done (s : State) (b : BufName) (vs : List Byte) : (s.writeBuffer b vs).done = s.done := rfl

@[simp] theorem State.writeBuffer_err (s : State) (b : BufName) (vs : List Byte) : (s.writeBuffer b vs).err = s.err := rfl

@[simp] theorem State.writeBuffer_ovr (s : State) (b : BufName) (vs : List Byte) : (s.writeBuffer b vs).ovr = s.ovr := rfl

@[simp] theorem State.writeBuffer_pending (s : State) (b : BufName) (vs : List Byte) : (s.writeBuffer b vs).pending = s.pending := rfl

@[simp] theorem State.writeBuffer_cmdl (s : State) (b : BufName) (vs : List Byte) : (s.writeBuffer b vs).cmdl = s.cmdl := rfl

@[simp] theorem State.writeBuffer_version (s : State) (b : BufName) (vs : List Byte) : (s.writeBuffer b vs).version = s.version := rfl

@[simp] theorem State.writeBuffer_ecc (s : State) (b : BufName) (vs : List Byte) : (s.writeBuffer b vs).ecc = s.ecc := rfl

@[simp] theorem State.writeBuffer_arg0 (s : State) (b : BufName) (vs : List Byte) : (s.writeBuffer b vs).arg0 = s.arg0 := rfl

@[simp] theorem State.writeBuffer_arg1 (s : State) (b : BufName) (vs : List Byte) : (s.writeBuffer b vs).arg1 = s.arg1 := rfl

@[simp] theorem State.writeBuffer_result (s : State) (b : BufName) (vs : List Byte) : (s.writeBuffer b vs).result = s.result := rfl

@[simp] theorem State.writeBuffer_errCode (s : State) (b : BufName) (vs : List Byte) : (s.writeBuffer b vs).errCode = s.errCode := rfl

@[simp] theorem State.writeBuffer_errOp (s : State) (b : BufName) (vs : List Byte) : (s.writeBuffer b vs).errOp = s.errOp := rfl

@[simp] theorem State.writeBuffer_errStage (s : State) (b : BufName) (vs : List Byte) : (s.writeBuffer b vs).errStage = s.errStage := rfl

@[simp] theorem State.writeBuffer_dlen (s : State) (b : BufName) (vs : List Byte) : (s.writeBuffer b vs).dlen = s.dlen := rfl

@[simp] theorem State.writeBuffer_eclen (s : State) (b : BufName) (vs : List Byte) : (s.writeBuffer b vs).eclen = s.eclen := rfl

@[simp] theorem State.writeBuffer_bitcnt (s : State) (b : BufName) (vs : List Byte) : (s.writeBuffer b vs).bitcnt = s.bitcnt := rfl

@[simp] theorem State.writeBuffer_mx (s : State) (b : BufName) (vs : List Byte) : (s.writeBuffer b vs).mx = s.mx := rfl

@[simp] theorem State.writeBuffer_mask (s : State) (b : BufName) (vs : List Byte) : (s.writeBuffer b vs).mask = s.mask := rfl

@[simp] theorem State.writeBuffer_score (s : State) (b : BufName) (vs : List Byte) : (s.writeBuffer b vs).score = s.score := rfl

@[simp] theorem State.writeBuffer_scores (s : State) (b : BufName) (vs : List Byte) : (s.writeBuffer b vs).scores = s.scores := rfl

@[simp] theorem State.writeBuffer_pen1 (s : State) (b : BufName) (vs : List Byte) : (s.writeBuffer b vs).pen1 = s.pen1 := rfl

@[simp] theorem State.writeBuffer_pen2 (s : State) (b : BufName) (vs : List Byte) : (s.writeBuffer b vs).pen2 = s.pen2 := rfl

@[simp] theorem State.writeBuffer_pen3 (s : State) (b : BufName) (vs : List Byte) : (s.writeBuffer b vs).pen3 = s.pen3 := rfl

@[simp] theorem State.writeBuffer_pen4 (s : State) (b : BufName) (vs : List Byte) : (s.writeBuffer b vs).pen4 = s.pen4 := rfl

@[simp] theorem State.writeBuffer_mem (s : State) (b : BufName) (vs : List Byte) : (s.writeBuffer b vs).mem = s.mem.setAll b.windowBase vs := rfl

@[simp] theorem State.writeBuffer_matrix (s : State) (b : BufName) (vs : List Byte) : (s.writeBuffer b vs).matrix = s.matrix := rfl

@[simp] theorem State.writeBuffer_host (s : State) (b : BufName) (vs : List Byte) : (s.writeBuffer b vs).host = s.host := rfl

@[simp] theorem State.writeBuffer_draws (s : State) (b : BufName) (vs : List Byte) : (s.writeBuffer b vs).draws = s.draws := rfl

@[simp] theorem State.writeBuffer_delay (s : State) (b : BufName) (vs : List Byte) : (s.writeBuffer b vs).delay = s.delay := rfl

@[simp] theorem State.writeBuffer_latencies (s : State) (b : BufName) (vs : List Byte) : (s.writeBuffer b vs).latencies = s.latencies := rfl

/-! ### `State.writePenalty` -/

@[simp] theorem State.writePenalty_irqen (s : State) (p : Penalty) : (s.writePenalty p).irqen = s.irqen := rfl

@[simp] theorem State.writePenalty_done (s : State) (p : Penalty) : (s.writePenalty p).done = s.done := rfl

@[simp] theorem State.writePenalty_err (s : State) (p : Penalty) : (s.writePenalty p).err = s.err := rfl

@[simp] theorem State.writePenalty_ovr (s : State) (p : Penalty) : (s.writePenalty p).ovr = s.ovr := rfl

@[simp] theorem State.writePenalty_pending (s : State) (p : Penalty) : (s.writePenalty p).pending = s.pending := rfl

@[simp] theorem State.writePenalty_cmdl (s : State) (p : Penalty) : (s.writePenalty p).cmdl = s.cmdl := rfl

@[simp] theorem State.writePenalty_version (s : State) (p : Penalty) : (s.writePenalty p).version = s.version := rfl

@[simp] theorem State.writePenalty_ecc (s : State) (p : Penalty) : (s.writePenalty p).ecc = s.ecc := rfl

@[simp] theorem State.writePenalty_arg0 (s : State) (p : Penalty) : (s.writePenalty p).arg0 = s.arg0 := rfl

@[simp] theorem State.writePenalty_arg1 (s : State) (p : Penalty) : (s.writePenalty p).arg1 = s.arg1 := rfl

@[simp] theorem State.writePenalty_result (s : State) (p : Penalty) : (s.writePenalty p).result = s.result := rfl

@[simp] theorem State.writePenalty_errCode (s : State) (p : Penalty) : (s.writePenalty p).errCode = s.errCode := rfl

@[simp] theorem State.writePenalty_errOp (s : State) (p : Penalty) : (s.writePenalty p).errOp = s.errOp := rfl

@[simp] theorem State.writePenalty_errStage (s : State) (p : Penalty) : (s.writePenalty p).errStage = s.errStage := rfl

@[simp] theorem State.writePenalty_dlen (s : State) (p : Penalty) : (s.writePenalty p).dlen = s.dlen := rfl

@[simp] theorem State.writePenalty_eclen (s : State) (p : Penalty) : (s.writePenalty p).eclen = s.eclen := rfl

@[simp] theorem State.writePenalty_bitcnt (s : State) (p : Penalty) : (s.writePenalty p).bitcnt = s.bitcnt := rfl

@[simp] theorem State.writePenalty_mx (s : State) (p : Penalty) : (s.writePenalty p).mx = s.mx := rfl

@[simp] theorem State.writePenalty_mask (s : State) (p : Penalty) : (s.writePenalty p).mask = s.mask := rfl

@[simp] theorem State.writePenalty_score (s : State) (p : Penalty) : (s.writePenalty p).score = BitVec.ofNat 32 p.total := rfl

@[simp] theorem State.writePenalty_scores (s : State) (p : Penalty) : (s.writePenalty p).scores = s.scores := rfl

@[simp] theorem State.writePenalty_pen1 (s : State) (p : Penalty) : (s.writePenalty p).pen1 = BitVec.ofNat 32 p.p1 := rfl

@[simp] theorem State.writePenalty_pen2 (s : State) (p : Penalty) : (s.writePenalty p).pen2 = BitVec.ofNat 32 p.p2 := rfl

@[simp] theorem State.writePenalty_pen3 (s : State) (p : Penalty) : (s.writePenalty p).pen3 = BitVec.ofNat 32 p.p3 := rfl

@[simp] theorem State.writePenalty_pen4 (s : State) (p : Penalty) : (s.writePenalty p).pen4 = BitVec.ofNat 32 p.p4 := rfl

@[simp] theorem State.writePenalty_mem (s : State) (p : Penalty) : (s.writePenalty p).mem = s.mem := rfl

@[simp] theorem State.writePenalty_matrix (s : State) (p : Penalty) : (s.writePenalty p).matrix = s.matrix := rfl

@[simp] theorem State.writePenalty_host (s : State) (p : Penalty) : (s.writePenalty p).host = s.host := rfl

@[simp] theorem State.writePenalty_draws (s : State) (p : Penalty) : (s.writePenalty p).draws = s.draws := rfl

@[simp] theorem State.writePenalty_delay (s : State) (p : Penalty) : (s.writePenalty p).delay = s.delay := rfl

@[simp] theorem State.writePenalty_latencies (s : State) (p : Penalty) : (s.writePenalty p).latencies = s.latencies := rfl

/-! ### `State.setRdata` -/

@[simp] theorem State.setRdata_irqen (s : State) (v : Word) : (s.setRdata v).irqen = s.irqen := rfl

@[simp] theorem State.setRdata_done (s : State) (v : Word) : (s.setRdata v).done = s.done := rfl

@[simp] theorem State.setRdata_err (s : State) (v : Word) : (s.setRdata v).err = s.err := rfl

@[simp] theorem State.setRdata_ovr (s : State) (v : Word) : (s.setRdata v).ovr = s.ovr := rfl

@[simp] theorem State.setRdata_pending (s : State) (v : Word) : (s.setRdata v).pending = s.pending := rfl

@[simp] theorem State.setRdata_cmdl (s : State) (v : Word) : (s.setRdata v).cmdl = s.cmdl := rfl

@[simp] theorem State.setRdata_version (s : State) (v : Word) : (s.setRdata v).version = s.version := rfl

@[simp] theorem State.setRdata_ecc (s : State) (v : Word) : (s.setRdata v).ecc = s.ecc := rfl

@[simp] theorem State.setRdata_arg0 (s : State) (v : Word) : (s.setRdata v).arg0 = s.arg0 := rfl

@[simp] theorem State.setRdata_arg1 (s : State) (v : Word) : (s.setRdata v).arg1 = s.arg1 := rfl

@[simp] theorem State.setRdata_result (s : State) (v : Word) : (s.setRdata v).result = s.result := rfl

@[simp] theorem State.setRdata_errCode (s : State) (v : Word) : (s.setRdata v).errCode = s.errCode := rfl

@[simp] theorem State.setRdata_errOp (s : State) (v : Word) : (s.setRdata v).errOp = s.errOp := rfl

@[simp] theorem State.setRdata_errStage (s : State) (v : Word) : (s.setRdata v).errStage = s.errStage := rfl

@[simp] theorem State.setRdata_dlen (s : State) (v : Word) : (s.setRdata v).dlen = s.dlen := rfl

@[simp] theorem State.setRdata_eclen (s : State) (v : Word) : (s.setRdata v).eclen = s.eclen := rfl

@[simp] theorem State.setRdata_bitcnt (s : State) (v : Word) : (s.setRdata v).bitcnt = s.bitcnt := rfl

@[simp] theorem State.setRdata_mx (s : State) (v : Word) : (s.setRdata v).mx = s.mx := rfl

@[simp] theorem State.setRdata_mask (s : State) (v : Word) : (s.setRdata v).mask = s.mask := rfl

@[simp] theorem State.setRdata_score (s : State) (v : Word) : (s.setRdata v).score = s.score := rfl

@[simp] theorem State.setRdata_scores (s : State) (v : Word) : (s.setRdata v).scores = s.scores := rfl

@[simp] theorem State.setRdata_pen1 (s : State) (v : Word) : (s.setRdata v).pen1 = s.pen1 := rfl

@[simp] theorem State.setRdata_pen2 (s : State) (v : Word) : (s.setRdata v).pen2 = s.pen2 := rfl

@[simp] theorem State.setRdata_pen3 (s : State) (v : Word) : (s.setRdata v).pen3 = s.pen3 := rfl

@[simp] theorem State.setRdata_pen4 (s : State) (v : Word) : (s.setRdata v).pen4 = s.pen4 := rfl

@[simp] theorem State.setRdata_mem (s : State) (v : Word) : (s.setRdata v).mem = s.mem := rfl

@[simp] theorem State.setRdata_matrix (s : State) (v : Word) : (s.setRdata v).matrix = s.matrix := rfl

@[simp] theorem State.setRdata_host (s : State) (v : Word) : (s.setRdata v).host = { s.host with rdata := v } := rfl

@[simp] theorem State.setRdata_draws (s : State) (v : Word) : (s.setRdata v).draws = s.draws := rfl

@[simp] theorem State.setRdata_delay (s : State) (v : Word) : (s.setRdata v).delay = s.delay := rfl

@[simp] theorem State.setRdata_latencies (s : State) (v : Word) : (s.setRdata v).latencies = s.latencies := rfl

/-! ### `State.setRd` -/

@[simp] theorem State.setRd_irqen (s : State) (v : Word) : (s.setRd v).irqen = s.irqen := rfl

@[simp] theorem State.setRd_done (s : State) (v : Word) : (s.setRd v).done = s.done := rfl

@[simp] theorem State.setRd_err (s : State) (v : Word) : (s.setRd v).err = s.err := rfl

@[simp] theorem State.setRd_ovr (s : State) (v : Word) : (s.setRd v).ovr = s.ovr := rfl

@[simp] theorem State.setRd_pending (s : State) (v : Word) : (s.setRd v).pending = s.pending := rfl

@[simp] theorem State.setRd_cmdl (s : State) (v : Word) : (s.setRd v).cmdl = s.cmdl := rfl

@[simp] theorem State.setRd_version (s : State) (v : Word) : (s.setRd v).version = s.version := rfl

@[simp] theorem State.setRd_ecc (s : State) (v : Word) : (s.setRd v).ecc = s.ecc := rfl

@[simp] theorem State.setRd_arg0 (s : State) (v : Word) : (s.setRd v).arg0 = s.arg0 := rfl

@[simp] theorem State.setRd_arg1 (s : State) (v : Word) : (s.setRd v).arg1 = s.arg1 := rfl

@[simp] theorem State.setRd_result (s : State) (v : Word) : (s.setRd v).result = s.result := rfl

@[simp] theorem State.setRd_errCode (s : State) (v : Word) : (s.setRd v).errCode = s.errCode := rfl

@[simp] theorem State.setRd_errOp (s : State) (v : Word) : (s.setRd v).errOp = s.errOp := rfl

@[simp] theorem State.setRd_errStage (s : State) (v : Word) : (s.setRd v).errStage = s.errStage := rfl

@[simp] theorem State.setRd_dlen (s : State) (v : Word) : (s.setRd v).dlen = s.dlen := rfl

@[simp] theorem State.setRd_eclen (s : State) (v : Word) : (s.setRd v).eclen = s.eclen := rfl

@[simp] theorem State.setRd_bitcnt (s : State) (v : Word) : (s.setRd v).bitcnt = s.bitcnt := rfl

@[simp] theorem State.setRd_mx (s : State) (v : Word) : (s.setRd v).mx = s.mx := rfl

@[simp] theorem State.setRd_mask (s : State) (v : Word) : (s.setRd v).mask = s.mask := rfl

@[simp] theorem State.setRd_score (s : State) (v : Word) : (s.setRd v).score = s.score := rfl

@[simp] theorem State.setRd_scores (s : State) (v : Word) : (s.setRd v).scores = s.scores := rfl

@[simp] theorem State.setRd_pen1 (s : State) (v : Word) : (s.setRd v).pen1 = s.pen1 := rfl

@[simp] theorem State.setRd_pen2 (s : State) (v : Word) : (s.setRd v).pen2 = s.pen2 := rfl

@[simp] theorem State.setRd_pen3 (s : State) (v : Word) : (s.setRd v).pen3 = s.pen3 := rfl

@[simp] theorem State.setRd_pen4 (s : State) (v : Word) : (s.setRd v).pen4 = s.pen4 := rfl

@[simp] theorem State.setRd_mem (s : State) (v : Word) : (s.setRd v).mem = s.mem := rfl

@[simp] theorem State.setRd_matrix (s : State) (v : Word) : (s.setRd v).matrix = s.matrix := rfl

@[simp] theorem State.setRd_host (s : State) (v : Word) : (s.setRd v).host = { s.host with rdata := v, rd := v } := rfl

@[simp] theorem State.setRd_draws (s : State) (v : Word) : (s.setRd v).draws = s.draws := rfl

@[simp] theorem State.setRd_delay (s : State) (v : Word) : (s.setRd v).delay = s.delay := rfl

@[simp] theorem State.setRd_latencies (s : State) (v : Word) : (s.setRd v).latencies = s.latencies := rfl

/-! ### `State.setPc` -/

@[simp] theorem State.setPc_irqen (s : State) (n : Nat) : (s.setPc n).irqen = s.irqen := rfl

@[simp] theorem State.setPc_done (s : State) (n : Nat) : (s.setPc n).done = s.done := rfl

@[simp] theorem State.setPc_err (s : State) (n : Nat) : (s.setPc n).err = s.err := rfl

@[simp] theorem State.setPc_ovr (s : State) (n : Nat) : (s.setPc n).ovr = s.ovr := rfl

@[simp] theorem State.setPc_pending (s : State) (n : Nat) : (s.setPc n).pending = s.pending := rfl

@[simp] theorem State.setPc_cmdl (s : State) (n : Nat) : (s.setPc n).cmdl = s.cmdl := rfl

@[simp] theorem State.setPc_version (s : State) (n : Nat) : (s.setPc n).version = s.version := rfl

@[simp] theorem State.setPc_ecc (s : State) (n : Nat) : (s.setPc n).ecc = s.ecc := rfl

@[simp] theorem State.setPc_arg0 (s : State) (n : Nat) : (s.setPc n).arg0 = s.arg0 := rfl

@[simp] theorem State.setPc_arg1 (s : State) (n : Nat) : (s.setPc n).arg1 = s.arg1 := rfl

@[simp] theorem State.setPc_result (s : State) (n : Nat) : (s.setPc n).result = s.result := rfl

@[simp] theorem State.setPc_errCode (s : State) (n : Nat) : (s.setPc n).errCode = s.errCode := rfl

@[simp] theorem State.setPc_errOp (s : State) (n : Nat) : (s.setPc n).errOp = s.errOp := rfl

@[simp] theorem State.setPc_errStage (s : State) (n : Nat) : (s.setPc n).errStage = s.errStage := rfl

@[simp] theorem State.setPc_dlen (s : State) (n : Nat) : (s.setPc n).dlen = s.dlen := rfl

@[simp] theorem State.setPc_eclen (s : State) (n : Nat) : (s.setPc n).eclen = s.eclen := rfl

@[simp] theorem State.setPc_bitcnt (s : State) (n : Nat) : (s.setPc n).bitcnt = s.bitcnt := rfl

@[simp] theorem State.setPc_mx (s : State) (n : Nat) : (s.setPc n).mx = s.mx := rfl

@[simp] theorem State.setPc_mask (s : State) (n : Nat) : (s.setPc n).mask = s.mask := rfl

@[simp] theorem State.setPc_score (s : State) (n : Nat) : (s.setPc n).score = s.score := rfl

@[simp] theorem State.setPc_scores (s : State) (n : Nat) : (s.setPc n).scores = s.scores := rfl

@[simp] theorem State.setPc_pen1 (s : State) (n : Nat) : (s.setPc n).pen1 = s.pen1 := rfl

@[simp] theorem State.setPc_pen2 (s : State) (n : Nat) : (s.setPc n).pen2 = s.pen2 := rfl

@[simp] theorem State.setPc_pen3 (s : State) (n : Nat) : (s.setPc n).pen3 = s.pen3 := rfl

@[simp] theorem State.setPc_pen4 (s : State) (n : Nat) : (s.setPc n).pen4 = s.pen4 := rfl

@[simp] theorem State.setPc_mem (s : State) (n : Nat) : (s.setPc n).mem = s.mem := rfl

@[simp] theorem State.setPc_matrix (s : State) (n : Nat) : (s.setPc n).matrix = s.matrix := rfl

@[simp] theorem State.setPc_host (s : State) (n : Nat) : (s.setPc n).host = { s.host with pc := n } := rfl

@[simp] theorem State.setPc_draws (s : State) (n : Nat) : (s.setPc n).draws = s.draws := rfl

@[simp] theorem State.setPc_delay (s : State) (n : Nat) : (s.setPc n).delay = s.delay := rfl

@[simp] theorem State.setPc_latencies (s : State) (n : Nat) : (s.setPc n).latencies = s.latencies := rfl

/-! ### `State.writeStatus` -/

@[simp] theorem State.writeStatus_irqen (s : State) (v : Word) : (s.writeStatus v).irqen = s.irqen := rfl

@[simp] theorem State.writeStatus_done (s : State) (v : Word) : (s.writeStatus v).done = (s.done && !v.getLsbD 1) := rfl

@[simp] theorem State.writeStatus_err (s : State) (v : Word) : (s.writeStatus v).err = (s.err && !v.getLsbD 2) := rfl

@[simp] theorem State.writeStatus_ovr (s : State) (v : Word) : (s.writeStatus v).ovr = (s.ovr && !v.getLsbD 3) := rfl

@[simp] theorem State.writeStatus_pending (s : State) (v : Word) : (s.writeStatus v).pending = s.pending := rfl

@[simp] theorem State.writeStatus_cmdl (s : State) (v : Word) : (s.writeStatus v).cmdl = s.cmdl := rfl

@[simp] theorem State.writeStatus_version (s : State) (v : Word) : (s.writeStatus v).version = s.version := rfl

@[simp] theorem State.writeStatus_ecc (s : State) (v : Word) : (s.writeStatus v).ecc = s.ecc := rfl

@[simp] theorem State.writeStatus_arg0 (s : State) (v : Word) : (s.writeStatus v).arg0 = s.arg0 := rfl

@[simp] theorem State.writeStatus_arg1 (s : State) (v : Word) : (s.writeStatus v).arg1 = s.arg1 := rfl

@[simp] theorem State.writeStatus_result (s : State) (v : Word) : (s.writeStatus v).result = s.result := rfl

@[simp] theorem State.writeStatus_errCode (s : State) (v : Word) : (s.writeStatus v).errCode = s.errCode := rfl

@[simp] theorem State.writeStatus_errOp (s : State) (v : Word) : (s.writeStatus v).errOp = s.errOp := rfl

@[simp] theorem State.writeStatus_errStage (s : State) (v : Word) : (s.writeStatus v).errStage = s.errStage := rfl

@[simp] theorem State.writeStatus_dlen (s : State) (v : Word) : (s.writeStatus v).dlen = s.dlen := rfl

@[simp] theorem State.writeStatus_eclen (s : State) (v : Word) : (s.writeStatus v).eclen = s.eclen := rfl

@[simp] theorem State.writeStatus_bitcnt (s : State) (v : Word) : (s.writeStatus v).bitcnt = s.bitcnt := rfl

@[simp] theorem State.writeStatus_mx (s : State) (v : Word) : (s.writeStatus v).mx = s.mx := rfl

@[simp] theorem State.writeStatus_mask (s : State) (v : Word) : (s.writeStatus v).mask = s.mask := rfl

@[simp] theorem State.writeStatus_score (s : State) (v : Word) : (s.writeStatus v).score = s.score := rfl

@[simp] theorem State.writeStatus_scores (s : State) (v : Word) : (s.writeStatus v).scores = s.scores := rfl

@[simp] theorem State.writeStatus_pen1 (s : State) (v : Word) : (s.writeStatus v).pen1 = s.pen1 := rfl

@[simp] theorem State.writeStatus_pen2 (s : State) (v : Word) : (s.writeStatus v).pen2 = s.pen2 := rfl

@[simp] theorem State.writeStatus_pen3 (s : State) (v : Word) : (s.writeStatus v).pen3 = s.pen3 := rfl

@[simp] theorem State.writeStatus_pen4 (s : State) (v : Word) : (s.writeStatus v).pen4 = s.pen4 := rfl

@[simp] theorem State.writeStatus_mem (s : State) (v : Word) : (s.writeStatus v).mem = s.mem := rfl

@[simp] theorem State.writeStatus_matrix (s : State) (v : Word) : (s.writeStatus v).matrix = s.matrix := rfl

@[simp] theorem State.writeStatus_host (s : State) (v : Word) : (s.writeStatus v).host = s.host := rfl

@[simp] theorem State.writeStatus_draws (s : State) (v : Word) : (s.writeStatus v).draws = s.draws := rfl

@[simp] theorem State.writeStatus_delay (s : State) (v : Word) : (s.writeStatus v).delay = s.delay := rfl

@[simp] theorem State.writeStatus_latencies (s : State) (v : Word) : (s.writeStatus v).latencies = s.latencies := rfl

/-! ### `State.writeConfig` -/

@[simp] theorem State.writeConfig_irqen (s : State) (v : Word) : (s.writeConfig v).irqen = s.irqen := rfl

@[simp] theorem State.writeConfig_done (s : State) (v : Word) : (s.writeConfig v).done = s.done := rfl

@[simp] theorem State.writeConfig_err (s : State) (v : Word) : (s.writeConfig v).err = s.err := rfl

@[simp] theorem State.writeConfig_ovr (s : State) (v : Word) : (s.writeConfig v).ovr = s.ovr := rfl

@[simp] theorem State.writeConfig_pending (s : State) (v : Word) : (s.writeConfig v).pending = s.pending := rfl

@[simp] theorem State.writeConfig_cmdl (s : State) (v : Word) : (s.writeConfig v).cmdl = s.cmdl := rfl

@[simp] theorem State.writeConfig_version (s : State) (v : Word) : (s.writeConfig v).version = v.extractLsb' 0 2 := rfl

@[simp] theorem State.writeConfig_ecc (s : State) (v : Word) : (s.writeConfig v).ecc = v.extractLsb' 2 2 := rfl

@[simp] theorem State.writeConfig_arg0 (s : State) (v : Word) : (s.writeConfig v).arg0 = s.arg0 := rfl

@[simp] theorem State.writeConfig_arg1 (s : State) (v : Word) : (s.writeConfig v).arg1 = s.arg1 := rfl

@[simp] theorem State.writeConfig_result (s : State) (v : Word) : (s.writeConfig v).result = s.result := rfl

@[simp] theorem State.writeConfig_errCode (s : State) (v : Word) : (s.writeConfig v).errCode = s.errCode := rfl

@[simp] theorem State.writeConfig_errOp (s : State) (v : Word) : (s.writeConfig v).errOp = s.errOp := rfl

@[simp] theorem State.writeConfig_errStage (s : State) (v : Word) : (s.writeConfig v).errStage = s.errStage := rfl

@[simp] theorem State.writeConfig_dlen (s : State) (v : Word) : (s.writeConfig v).dlen = s.dlen := rfl

@[simp] theorem State.writeConfig_eclen (s : State) (v : Word) : (s.writeConfig v).eclen = s.eclen := rfl

@[simp] theorem State.writeConfig_bitcnt (s : State) (v : Word) : (s.writeConfig v).bitcnt = s.bitcnt := rfl

@[simp] theorem State.writeConfig_mx (s : State) (v : Word) : (s.writeConfig v).mx = s.mx := rfl

@[simp] theorem State.writeConfig_mask (s : State) (v : Word) : (s.writeConfig v).mask = s.mask := rfl

@[simp] theorem State.writeConfig_score (s : State) (v : Word) : (s.writeConfig v).score = s.score := rfl

@[simp] theorem State.writeConfig_scores (s : State) (v : Word) : (s.writeConfig v).scores = s.scores := rfl

@[simp] theorem State.writeConfig_pen1 (s : State) (v : Word) : (s.writeConfig v).pen1 = s.pen1 := rfl

@[simp] theorem State.writeConfig_pen2 (s : State) (v : Word) : (s.writeConfig v).pen2 = s.pen2 := rfl

@[simp] theorem State.writeConfig_pen3 (s : State) (v : Word) : (s.writeConfig v).pen3 = s.pen3 := rfl

@[simp] theorem State.writeConfig_pen4 (s : State) (v : Word) : (s.writeConfig v).pen4 = s.pen4 := rfl

@[simp] theorem State.writeConfig_mem (s : State) (v : Word) : (s.writeConfig v).mem = s.mem := rfl

@[simp] theorem State.writeConfig_matrix (s : State) (v : Word) : (s.writeConfig v).matrix = s.matrix := rfl

@[simp] theorem State.writeConfig_host (s : State) (v : Word) : (s.writeConfig v).host = s.host := rfl

@[simp] theorem State.writeConfig_draws (s : State) (v : Word) : (s.writeConfig v).draws = s.draws := rfl

@[simp] theorem State.writeConfig_delay (s : State) (v : Word) : (s.writeConfig v).delay = s.delay := rfl

@[simp] theorem State.writeConfig_latencies (s : State) (v : Word) : (s.writeConfig v).latencies = s.latencies := rfl

/-! ### `State.softReset` -/

@[simp] theorem State.softReset_irqen (s : State) : s.softReset.irqen = State.reset.irqen := rfl

@[simp] theorem State.softReset_done (s : State) : s.softReset.done = State.reset.done := rfl

@[simp] theorem State.softReset_err (s : State) : s.softReset.err = State.reset.err := rfl

@[simp] theorem State.softReset_ovr (s : State) : s.softReset.ovr = State.reset.ovr := rfl

@[simp] theorem State.softReset_pending (s : State) : s.softReset.pending = State.reset.pending := rfl

@[simp] theorem State.softReset_cmdl (s : State) : s.softReset.cmdl = State.reset.cmdl := rfl

@[simp] theorem State.softReset_version (s : State) : s.softReset.version = State.reset.version := rfl

@[simp] theorem State.softReset_ecc (s : State) : s.softReset.ecc = State.reset.ecc := rfl

@[simp] theorem State.softReset_arg0 (s : State) : s.softReset.arg0 = State.reset.arg0 := rfl

@[simp] theorem State.softReset_arg1 (s : State) : s.softReset.arg1 = State.reset.arg1 := rfl

@[simp] theorem State.softReset_result (s : State) : s.softReset.result = State.reset.result := rfl

@[simp] theorem State.softReset_errCode (s : State) : s.softReset.errCode = State.reset.errCode := rfl

@[simp] theorem State.softReset_errOp (s : State) : s.softReset.errOp = State.reset.errOp := rfl

@[simp] theorem State.softReset_errStage (s : State) : s.softReset.errStage = State.reset.errStage := rfl

@[simp] theorem State.softReset_dlen (s : State) : s.softReset.dlen = State.reset.dlen := rfl

@[simp] theorem State.softReset_eclen (s : State) : s.softReset.eclen = State.reset.eclen := rfl

@[simp] theorem State.softReset_bitcnt (s : State) : s.softReset.bitcnt = State.reset.bitcnt := rfl

@[simp] theorem State.softReset_mx (s : State) : s.softReset.mx = State.reset.mx := rfl

@[simp] theorem State.softReset_mask (s : State) : s.softReset.mask = State.reset.mask := rfl

@[simp] theorem State.softReset_score (s : State) : s.softReset.score = State.reset.score := rfl

@[simp] theorem State.softReset_scores (s : State) : s.softReset.scores = State.reset.scores := rfl

@[simp] theorem State.softReset_pen1 (s : State) : s.softReset.pen1 = State.reset.pen1 := rfl

@[simp] theorem State.softReset_pen2 (s : State) : s.softReset.pen2 = State.reset.pen2 := rfl

@[simp] theorem State.softReset_pen3 (s : State) : s.softReset.pen3 = State.reset.pen3 := rfl

@[simp] theorem State.softReset_pen4 (s : State) : s.softReset.pen4 = State.reset.pen4 := rfl

@[simp] theorem State.softReset_mem (s : State) : s.softReset.mem = if s.pending then State.reset.mem else s.mem := rfl

@[simp] theorem State.softReset_matrix (s : State) : s.softReset.matrix = if s.pending then State.reset.matrix else s.matrix := rfl

@[simp] theorem State.softReset_host (s : State) : s.softReset.host = s.host := rfl

@[simp] theorem State.softReset_draws (s : State) : s.softReset.draws = s.draws := rfl

@[simp] theorem State.softReset_delay (s : State) : s.softReset.delay = State.reset.delay := rfl

@[simp] theorem State.softReset_latencies (s : State) : s.softReset.latencies = s.latencies := rfl

end Sys2Proof.Machine
end

