-- ==== Sys2Proof/Laws/Bus.lean ====
section
/-! SUPPORT. The laws of the address map and of one host access: everything an access can do. -/

namespace Sys2Proof.Machine

/-! ### The map (R21, R60) -/

/-- Every register is found at its own offset. -/
@[simp] theorem regAt_offset (r : RegName) : regAt r.offset = some r := by
  cases r with
  | scores m => revert m; decide
  | pen k => revert k; decide
  | _ => rfl

/-- A register's offset is a multiple of 4 below 0x070. -/
theorem RegName.offset_range (r : RegName) : r.offset < 0x070 ∧ r.offset % 4 = 0 := by
  cases r with
  | scores m => have := m.isLt; simp only [RegName.offset]; omega
  | pen k => have := k.isLt; simp only [RegName.offset]; omega
  | _ => decide

/-- Only a register's own offset finds it. -/
theorem regAt_eq_some {o : Nat} {r : RegName} (h : regAt o = some r) : r.offset = o := by
  have := List.find?_some h
  simpa using this

/-- There is a register at every aligned offset below 0x070. -/
theorem regAt_isSome {o : Nat} (h : o < 0x070) (h4 : o % 4 = 0) : ∃ r, regAt o = some r := by
  have all : ∀ k : Fin 28, (regAt (4 * k.val)).isSome = true := by decide
  have hk := all ⟨o / 4, by omega⟩
  rw [show 4 * (o / 4) = o by omega] at hk
  exact Option.isSome_iff_exists.mp hk

/-- The size of a window (R60). -/
def BufName.windowSize : BufName → Nat
  | .text => 256 | .data => 64 | .ec => 64 | .gen => 64 | .matrix => 640

/-- A window is the offsets from its base through its size (R60). -/
theorem regionOf_window {o : Nat} {b : BufName} :
    regionOf o = .window b ↔ b.windowBase ≤ o ∧ o < b.windowBase + b.windowSize := by
  cases b <;> simp only [BufName.windowBase, BufName.windowSize, regionOf] <;>
    (repeat' split) <;> simp only [reduceCtorEq, false_iff, true_iff, Region.window.injEq] <;> omega

theorem regionOf_registers {o : Nat} : regionOf o = .registers ↔ o < 0x070 := by
  simp only [regionOf]
  (repeat' split) <;> simp only [reduceCtorEq, false_iff, true_iff] <;> omega

theorem regionOf_reserved {o : Nat} :
    regionOf o = .reserved ↔ (0x070 ≤ o ∧ o < 0x100) ∨ (0x2C0 ≤ o ∧ o < 0x400) ∨ 0x680 ≤ o := by
  simp only [regionOf]
  (repeat' split) <;> simp only [reduceCtorEq, false_iff, true_iff] <;> omega

/-- The byte of a TEXT, DATA, EC or GEN offset is the memory's (R60). -/
theorem State.byteAt_buffer (s : State) {o : Nat} (h : isBufferOffset o = true) : s.byteAt o = s.mem.get? o := by
  simp only [isBufferOffset, Bool.and_eq_true, decide_eq_true_eq] at h
  have hm : regionOf o ≠ .window .matrix := fun hw => by
    have := regionOf_window.mp hw
    simp only [BufName.windowBase, BufName.windowSize] at this
    omega
  have hg : regionOf o ≠ .registers := fun hw => by have := regionOf_registers.mp hw; omega
  have hr : regionOf o ≠ .reserved := fun hw => by have := regionOf_reserved.mp hw; omega
  simp only [State.byteAt]
  split <;> simp_all

/-- The byte of a MATRIX offset is the cell's (R40, R45). -/
theorem State.byteAt_matrix (s : State) {k : Nat} (h : k < 625) :
    s.byteAt (0x400 + k) = (s.matrix[k]).map Cell.toByte := by
  have hw : regionOf (0x400 + k) = .window .matrix := regionOf_window.mpr (by
    simp only [BufName.windowBase, BufName.windowSize]; omega)
  simp [State.byteAt, hw, h]

/-- An access that neither faults leaves only `perform`. -/
theorem State.access_eq_next {s t : State} {a : BusAccess} (h : s.access a = .next t) :
    a.busError = false ∧ (s.pending = true → a.allowedWhilePending = true) ∧ s.perform a = .next t := by
  simp only [State.access] at h
  split at h
  · cases h
  · split at h
    · cases h
    · rename_i hb hp
      refine ⟨by simpa using hb, fun hpend => ?_, h⟩
      simpa [hpend] using hp

/-- Everything an access can do when it answers a next state: a register read, a window read, a register write, or a
window write. -/
theorem State.perform_cases {s t : State} {a : BusAccess} (h : s.perform a = .next t) :
    (∃ o w r, a = .read o w ∧ regAt o.toNat = some r ∧ t = s.setRd (s.readReg r)) ∨
    (∃ o w b, a = .read o w ∧ regionOf o.toNat = .window b ∧
      t = { s.setRdata (s.readWindow o.toNat w.bytes) with draws := s.draws + 1 }) ∨
    (∃ o w v r, a = .write o w v ∧ regAt o.toNat = some r ∧ t = s.writeReg r v) ∨
    (∃ o w v b, a = .write o w v ∧ regionOf o.toNat = .window b ∧ t = s.writeWindow b o.toNat w.bytes v) := by
  cases a with
  | read o w =>
    simp only [State.perform] at h
    split at h
    · split at h
      · cases h
        exact .inl ⟨o, w, _, rfl, ‹_›, rfl⟩
      · cases h
    · cases h
      exact .inr (.inl ⟨o, w, _, rfl, ‹_›, rfl⟩)
    · cases h
  | write o w v =>
    simp only [State.perform] at h
    split at h
    · split at h
      · cases h
        exact .inr (.inr (.inl ⟨o, w, v, _, rfl, ‹_›, rfl⟩))
      · cases h
    · cases h
      exact .inr (.inr (.inr ⟨o, w, v, _, rfl, ‹_›, rfl⟩))
    · cases h

/-- Everything one host turn can do: nothing more to do, an access, or a branch. -/
theorem State.hostTurn_cases {s t : State} (h : s.hostTurn = .next t) :
    t = s ∨ (∃ a, (s.setPc (s.host.pc + 1)).access a = .next t) ∨ ∃ n, t = s.setPc n := by
  simp only [State.hostTurn] at h
  split at h
  · cases h; exact .inl rfl
  · exact .inr (.inl ⟨_, h⟩)
  · cases h; exact .inr (.inr ⟨_, rfl⟩)
  · cases h; exact .inr (.inr ⟨_, rfl⟩)

/-- The accepted command's wait changes only the model's own fields. -/
theorem State.setWait_cases (s : State) (w : Word) :
    ∃ d l n, s.setWait w = { s with delay := d, latencies := l, draws := n } := by
  simp only [State.setWait]
  split
  · exact ⟨_, _, _, rfl⟩
  · exact ⟨_, _, _, rfl⟩

end Sys2Proof.Machine
end

