-- ==== Sys2Proof/Laws/Commands.lean ====
section
/-! SUPPORT. The laws of the commands' shared operations: what checked operands are, and everything a command's body and
a row of stages can do. -/

namespace Sys2Proof.Machine

/-! ### Checked operands (R25, R93, R98) -/

@[simp] theorem Version.ofCode?_code (v : Version) : Version.ofCode? v.code = some v := by cases v <;> rfl

@[simp] theorem EccLevel.ofCode_code (l : EccLevel) : EccLevel.ofCode l.code = l := by cases l <;> rfl

theorem twoBits_cases (b : BitVec 2) : b = 0#2 ∨ b = 1#2 ∨ b = 2#2 ∨ b = 3#2 := by
  revert b
  decide

theorem State.checkedVersion_eq_ok {s : State} {v : Version} : s.checkedVersion = .ok v ↔ s.version = v.code := by
  simp only [State.checkedVersion, Version.ofCode?]
  rcases twoBits_cases s.version with h | h | h | h <;> cases v <;> simp [h, Version.code]

/-- The check fails exactly on versions 0 and 3, with UNSUPPORTED_CONFIGURATION. -/
theorem State.checkedVersion_eq_error {s : State} {e : ErrCode} :
    s.checkedVersion = .error e ↔ e = .unsupportedConfiguration ∧ (s.version = 0#2 ∨ s.version = 3#2) := by
  simp only [State.checkedVersion, Version.ofCode?]
  rcases twoBits_cases s.version with h | h | h | h <;> simp [h, eq_comm]

theorem State.checkedCapacity_eq_ok {s : State} {cap : Capacity} :
    s.checkedCapacity = .ok cap ↔ ∃ v, s.checkedVersion = .ok v ∧ cap = capacity v s.level := by
  simp only [State.checkedCapacity]
  cases s.checkedVersion <;> simp [eq_comm]

theorem State.checkedCapacity_eq_error {s : State} {e : ErrCode} :
    s.checkedCapacity = .error e ↔ s.checkedVersion = .error e := by
  simp only [State.checkedCapacity]
  cases s.checkedVersion <;> simp

/-- The table's counts fit their buffers (R180). -/
theorem capacity_bounds (v : Version) (l : EccLevel) :
    9 ≤ (capacity v l).dataCount ∧ (capacity v l).dataCount ≤ 34 ∧ 7 ≤ (capacity v l).ecCount ∧
      (capacity v l).ecCount ≤ 28 := by
  cases v <;> cases l <;> decide

/-- RS_GEN's count fits GEN (R143). -/
theorem State.genCount_le {s : State} {x : Bool} {n : Nat} (h : s.genCount x = .ok n) : n ≤ 63 := by
  simp only [State.genCount] at h
  split at h
  · split at h
    · cases h
    · cases h; omega
  · split at h
    · rename_i cap hc
      cases h
      obtain ⟨v, -, rfl⟩ := State.checkedCapacity_eq_ok.mp hc
      have := capacity_bounds v s.level
      omega
    · cases h

/-- RS_ENC's counts fit DATA and EC (R144). -/
theorem State.encCounts_le {s : State} {x : Bool} {nd n : Nat} (h : s.encCounts x = .ok (nd, n)) : nd ≤ 64 ∧ n ≤ 63 := by
  simp only [State.encCounts] at h
  split at h
  · split at h
    · cases h
    · rename_i hb
      simp only [gt_iff_lt, Bool.or_eq_true, decide_eq_true_eq, not_or, Nat.not_lt] at hb
      cases h
      omega
  · split at h
    · rename_i cap hc
      cases h
      obtain ⟨v, -, rfl⟩ := State.checkedCapacity_eq_ok.mp hc
      have := capacity_bounds v s.level
      omega
    · cases h

/-! ### Rows of stages (R271, R272, R302, R303) -/

@[simp] theorem runStages_nil (s : State) : runStages [] s = .next s.complete := rfl

theorem runStages_ok {b : State → Body} {bs : List (State → Body)} {s t : State} (h : b s = .ok t) :
    runStages (b :: bs) s = runStages bs t := by simp [runStages, h]

theorem runStages_error {b : State → Body} {bs : List (State → Body)} {s : State} {e : ErrCode} {st : Byte}
    (h : b s = .error e st) : runStages (b :: bs) s = .next (s.raise e st) := by simp [runStages, h]

theorem runStages_uninit {b : State → Body} {bs : List (State → Body)} {s : State} (h : b s = .uninit) :
    runStages (b :: bs) s = .fault .uninit := by simp [runStages, h]

/-- Everything one stage in front of others can do. -/
theorem runStages_cons_next {b : State → Body} {bs : List (State → Body)} {s t : State}
    (h : runStages (b :: bs) s = .next t) :
    (∃ u, b s = .ok u ∧ runStages bs u = .next t) ∨ ∃ e st, b s = .error e st ∧ t = s.raise e st := by
  cases hb : b s with
  | ok u => exact .inl ⟨u, rfl, (runStages_ok hb).symm.trans h⟩
  | error e st =>
    rw [runStages_error hb] at h
    cases h
    exact .inr ⟨e, st, rfl, rfl⟩
  | uninit => rw [runStages_uninit hb] at h; cases h

/-- Everything a command of one stage can do: complete, raise, or fault UNINIT. -/
theorem runStages_single (b : State → Body) (s : State) :
    (∃ u, b s = .ok u ∧ runStages [b] s = .next u.complete) ∨
    (∃ e st, b s = .error e st ∧ runStages [b] s = .next (s.raise e st)) ∨
    (b s = .uninit ∧ runStages [b] s = .fault .uninit) := by
  cases hb : b s with
  | ok u => exact .inl ⟨u, rfl, runStages_ok hb⟩
  | error e st => exact .inr (.inl ⟨e, st, rfl, runStages_error hb⟩)
  | uninit => exact .inr (.inr ⟨rfl, runStages_uninit hb⟩)

/-- Stages never refuse, and their only fault is UNINIT (R311, R312). -/
theorem runStages_outcome (bs : List (State → Body)) (s : State) :
    (∃ t, runStages bs s = .next t) ∨ runStages bs s = .fault .uninit := by
  induction bs generalizing s with
  | nil => exact .inl ⟨_, rfl⟩
  | cons b bs ih =>
    cases hb : b s with
    | ok u => rw [runStages_ok hb]; exact ih u
    | error e st => exact .inl ⟨_, runStages_error hb⟩
    | uninit => exact .inr (runStages_uninit hb)

/-- Stages that answer a next state end the command: not pending, DONE set (R302, R303). -/
theorem runStages_ends {bs : List (State → Body)} {s t : State} (h : runStages bs s = .next t) :
    t.pending = false ∧ t.done = true := by
  induction bs generalizing s with
  | nil => cases h; exact ⟨rfl, rfl⟩
  | cons b bs ih =>
    rcases runStages_cons_next h with ⟨u, -, hu⟩ | ⟨e, st, -, rfl⟩
    · exact ih hu
    · exact ⟨rfl, rfl⟩

/-! ### The bodies: everything each can write -/

theorem bodyGfMul_ok {s t : State} (h : bodyGfMul s = .ok t) : ∃ v, t = { s with result := v } := by
  cases h; exact ⟨_, rfl⟩

theorem bodyGfExp_ok {s t : State} (h : bodyGfExp s = .ok t) : ∃ v, t = { s with result := v } := by
  cases h; exact ⟨_, rfl⟩

theorem bodyGfLog_ok {s t : State} (h : bodyGfLog s = .ok t) :
    ∃ p, gfLog? s.fieldArg0 = some p ∧ t = { s with result := p.setWidth 32 } := by
  simp only [bodyGfLog] at h
  split at h
  · cases h
  · cases h; exact ⟨_, ‹_›, rfl⟩

theorem bodyRsGen_ok {x : Bool} {s t : State} (h : bodyRsGen x s = .ok t) :
    ∃ n, s.genCount x = .ok n ∧ t = { s.writeBuffer .gen (genpoly n) with result := BitVec.ofNat 32 (n + 1) } := by
  simp only [bodyRsGen] at h
  split at h
  · cases h
  · cases h; exact ⟨_, ‹_›, rfl⟩

theorem bodyRsEnc_ok {x : Bool} {s t : State} (h : bodyRsEnc x s = .ok t) :
    ∃ nd n d, s.encCounts x = .ok (nd, n) ∧ s.readBuffer .data nd = some d ∧
      t = { s.writeBuffer .ec (rsrem d n) with eclen := BitVec.ofNat 8 n } := by
  simp only [bodyRsEnc] at h
  split at h
  · cases h
  · split at h
    · cases h
    · cases h; exact ⟨_, _, _, ‹_›, ‹_›, rfl⟩

theorem bodyBsBuild_ok {s t : State} (h : bodyBsBuild s = .ok t) :
    ∃ cap p, s.checkedCapacity = .ok cap ∧ 12 + 8 * s.countArg0 ≤ 8 * cap.dataCount ∧
      s.readBuffer .text s.countArg0 = some p ∧
      t = { s.writeBuffer .data (bsbuild p cap.dataCount) with
            dlen := BitVec.ofNat 8 cap.dataCount, bitcnt := BitVec.ofNat 16 (12 + 8 * s.countArg0) } := by
  simp only [bodyBsBuild] at h
  split at h
  · cases h
  · split at h
    · cases h
    · split at h
      · cases h
      · cases h; exact ⟨_, _, ‹_›, by omega, ‹_›, rfl⟩

theorem bodyTblCap_ok {s t : State} (h : bodyTblCap s = .ok t) : ∃ v, t = { s with result := v } := by
  simp only [bodyTblCap] at h
  split at h
  · cases h
  · cases h; exact ⟨_, rfl⟩

theorem bodyTblGeom_ok {s t : State} (h : bodyTblGeom s = .ok t) : ∃ v, t = { s with result := v } := by
  simp only [bodyTblGeom] at h
  split at h
  · cases h
  · cases h; exact ⟨_, rfl⟩

theorem bodyTblFmt_ok {m : BitVec 3} {s t : State} (h : bodyTblFmt m s = .ok t) : ∃ v, t = { s with result := v } := by
  simp only [bodyTblFmt] at h
  split at h
  · cases h
  · cases h; exact ⟨_, rfl⟩

theorem bodyMxBuild_ok {s t : State} (h : bodyMxBuild s = .ok t) :
    ∃ v, s.checkedVersion = .ok v ∧ t = { s with matrix := overlay (mxbuildCells v) s.matrix, mx := .built v } := by
  simp only [bodyMxBuild] at h
  split at h
  · cases h
  · cases h; exact ⟨_, ‹_›, rfl⟩

theorem bodyMxPlace_ok {s t : State} (h : bodyMxPlace s = .ok t) :
    ∃ v mv g d e, s.checkedVersion = .ok v ∧ s.mx = .built mv ∧ s.readGrid mv = some g ∧
      supplyLength v = (placementOrder mv.size g).length ∧
      s.readBuffer .data (capacity v s.level).dataCount = some d ∧
      s.readBuffer .ec (capacity v s.level).ecCount = some e ∧
      t = { s.writeGrid (mxplace g (placementOrder mv.size g) (bitSupply v d e)) with mx := .placed mv } := by
  simp only [bodyMxPlace] at h
  split at h
  · cases h
  · split at h
    · cases h
    · split at h
      · cases h
      · split at h
        · cases h
        · split at h
          · cases h
          · split at h
            · rename_i hv _ _ hmv _ _ hg hlt hgt _ _ _ _ hd he
              cases h
              refine ⟨_, _, _, _, _, hv, ?_, hg, by omega, hd, he, rfl⟩
              simp only [State.builtVersion] at hmv
              split at hmv <;> cases hmv
              assumption
            · cases h
            · cases h

theorem bodyMaskScore_ok {m : BitVec 3} {s t : State} (h : bodyMaskScore m s = .ok t) :
    ∃ mv g, s.mx = .placed mv ∧ s.readGrid mv = some g ∧ t = s.writePenalty (candidatePenalty g m) := by
  simp only [bodyMaskScore] at h
  split at h
  · cases h
  · split at h
    · cases h
    · rename_i hmv _ _ hg
      cases h
      refine ⟨_, _, ?_, hg, rfl⟩
      simp only [State.placedVersion] at hmv
      split at hmv <;> cases hmv
      assumption

theorem bodyMaskSelect_ok {s t : State} (h : bodyMaskSelect s = .ok t) :
    ∃ v mv g, s.checkedVersion = .ok v ∧ s.mx = .placed mv ∧ s.readGrid mv = some g ∧ t = s.select mv g := by
  simp only [bodyMaskSelect] at h
  split at h
  · cases h
  · split at h
    · cases h
    · split at h
      · cases h
      · rename_i hv _ _ hmv _ _ hg
        cases h
        refine ⟨_, _, _, hv, ?_, hg, rfl⟩
        simp only [State.placedVersion] at hmv
        split at hmv <;> cases hmv
        assumption

end Sys2Proof.Machine
end

