-- ==== Sys2Proof/Laws/Matrix.lean ====
section
/-! SUPPORT. The laws of grids and of the cell array: reading a cell after each operation, and grids read from and written
to MATRIX. -/

namespace Sys2Proof.Machine

/-! ### Mapping with an index -/

@[simp] theorem mapFrom_length {α β : Type} (f : Nat → α → β) (i : Nat) (l : List α) :
    (mapFrom f i l).length = l.length := by
  induction l generalizing i with
  | nil => rfl
  | cons x xs ih => simp [mapFrom, ih]

theorem mapFrom_getElem? {α β : Type} (f : Nat → α → β) (i : Nat) (l : List α) (k : Nat) :
    (mapFrom f i l)[k]? = (l[k]?).map (f (i + k)) := by
  induction l generalizing i k with
  | nil => simp [mapFrom]
  | cons x xs ih =>
    cases k with
    | zero => simp [mapFrom]
    | succ k => simp [mapFrom, ih, Nat.add_assoc, Nat.add_comm 1]

/-! ### Grids -/

/-- A grid of `h` rows of `w` cells. -/
def Grid.Rect (g : Grid) (h w : Nat) : Prop := g.length = h ∧ ∀ (r : Nat) (row : List Cell), g[r]? = some row → row.length = w

theorem Grid.cell?_mapCells (g : Grid) (f : Nat → Nat → Cell → Cell) (r c : Nat) :
    (g.mapCells f).cell? r c = (g.cell? r c).map (f r c) := by
  simp only [Grid.cell?, Grid.mapCells, mapFrom_getElem?, Nat.zero_add]
  cases g[r]? <;> simp [mapFrom_getElem?]

theorem Grid.rect_mapCells {g : Grid} {h w : Nat} (hg : g.Rect h w) (f : Nat → Nat → Cell → Cell) :
    (g.mapCells f).Rect h w := by
  refine ⟨by simp [Grid.mapCells, hg.1], fun r row hr => ?_⟩
  simp only [Grid.mapCells, mapFrom_getElem?, Option.map_eq_some_iff] at hr
  obtain ⟨row', hr', rfl⟩ := hr
  simpa using hg.2 r row' hr'

theorem Grid.cell?_setCell (g : Grid) (r c r' c' : Nat) (k : Cell) :
    (g.setCell r c k).cell? r' c' = if r' = r ∧ c' = c then (g.cell? r' c').map (fun _ => k) else g.cell? r' c' := by
  simp only [Grid.cell?, Grid.setCell, List.getElem?_modify]
  by_cases hr : r = r'
  · subst hr
    cases g[r]? with
    | none => simp
    | some row =>
      by_cases hc : c' = c
      · subst hc
        by_cases hl : c' < row.length <;> simp [hl]
      · simp [hc, List.getElem?_set_ne (Ne.symm hc)]
  · cases g[r']? <;> simp [hr, Ne.symm hr]

theorem Grid.rect_setCell {g : Grid} {h w : Nat} (hg : g.Rect h w) (r c : Nat) (k : Cell) : (g.setCell r c k).Rect h w := by
  refine ⟨by simp [Grid.setCell, hg.1], fun r' row hr => ?_⟩
  rw [Grid.setCell, List.getElem?_modify] at hr
  obtain ⟨row', hr', rfl⟩ := Option.map_eq_some_iff.mp hr
  have := hg.2 r' row' hr'
  split <;> simpa using this

/-- A cell inside a grid of known size exists. -/
theorem Grid.Rect.cell?_isSome {g : Grid} {h w r c : Nat} (hg : g.Rect h w) (hr : r < h) (hc : c < w) :
    ∃ k, g.cell? r c = some k := by
  have hr' : r < g.length := hg.1 ▸ hr
  have hrow := hg.2 r g[r] (List.getElem?_eq_getElem hr')
  simp only [Grid.cell?, List.getElem?_eq_getElem hr']
  exact ⟨_, List.getElem?_eq_getElem (hrow ▸ hc)⟩

theorem Grid.Rect.cell?_eq_none {g : Grid} {h w r c : Nat} (hg : g.Rect h w) (hrc : ¬(r < h ∧ c < w)) :
    g.cell? r c = none := by
  simp only [Grid.cell?]
  cases hr : g[r]? with
  | none => rfl
  | some row =>
    obtain ⟨hlt, -⟩ := List.getElem?_eq_some_iff.mp hr
    have hrow := hg.2 r row hr
    have := hg.1
    simp only [List.getElem?_eq_none_iff]
    omega

/-! ### Row-major lists (R45) -/

theorem rowsOf_getElem? (w n : Nat) (cells : List Cell) (r : Nat) :
    (rowsOf w n cells)[r]? = if r < n then some ((cells.drop (r * w)).take w) else none := by
  induction n generalizing cells r with
  | zero => simp [rowsOf]
  | succ n ih =>
    cases r with
    | zero => simp [rowsOf]
    | succ r =>
      simp only [rowsOf, List.getElem?_cons_succ, ih, List.drop_drop, Nat.succ_mul, Nat.add_lt_add_iff_right]
      rw [Nat.add_comm w]

@[simp] theorem rowsOf_length (w n : Nat) (cells : List Cell) : (rowsOf w n cells).length = n := by
  induction n generalizing cells with
  | zero => rfl
  | succ n ih => simp [rowsOf, ih]

theorem rowsOf_rect {w n : Nat} {cells : List Cell} (h : cells.length = n * w) : (rowsOf w n cells).Rect n w := by
  refine ⟨rowsOf_length w n cells, fun r row hr => ?_⟩
  rw [rowsOf_getElem?] at hr
  split at hr
  · rename_i hrn
    cases hr
    have : (r + 1) * w ≤ n * w := Nat.mul_le_mul_right w hrn
    simp only [List.length_take, List.length_drop, h]
    rw [Nat.succ_mul] at this
    omega
  · cases hr

/-- Cell (r, c) of a row-major list stands at index r·w + c. -/
theorem rowsOf_cell? {w n r c : Nat} (cells : List Cell) (hr : r < n) (hc : c < w) :
    (rowsOf w n cells).cell? r c = cells[r * w + c]? := by
  simp only [Grid.cell?, rowsOf_getElem?, if_pos hr, List.getElem?_take, if_pos hc, List.getElem?_drop]

theorem Grid.flatten_length {g : Grid} {h w : Nat} (hg : g.Rect h w) : g.flatten.length = h * w := by
  induction g generalizing h with
  | nil =>
    obtain ⟨rfl, -⟩ := hg
    simp
  | cons row g ih =>
    obtain ⟨rfl, hrows⟩ := hg
    have h0 := hrows 0 row (by simp)
    have ih := ih (h := g.length) ⟨rfl, fun r row' hr => hrows (r + 1) row' (by simpa using hr)⟩
    simp only [List.flatten_cons, List.length_append, h0, ih, List.length_cons, Nat.succ_mul]
    omega

/-- The row-major list of a grid holds cell (r, c) at index r·w + c. -/
theorem Grid.flatten_getElem? {g : Grid} {h w r c : Nat} (hg : g.Rect h w) (hr : r < h) (hc : c < w) :
    g.flatten[r * w + c]? = g.cell? r c := by
  induction g generalizing h r with
  | nil =>
    obtain ⟨rfl, -⟩ := hg
    simp at hr
  | cons row g ih =>
    obtain ⟨rfl, hrows⟩ := hg
    have h0 := hrows 0 row (by simp)
    cases r with
    | zero =>
      rw [List.flatten_cons, Nat.zero_mul, Nat.zero_add, List.getElem?_append_left (by omega)]
      simp [Grid.cell?]
    | succ r =>
      have ih := ih (h := g.length) (r := r) ⟨rfl, fun r row' hr => hrows (r + 1) row' (by simpa using hr)⟩
        (by simpa using hr)
      rw [List.flatten_cons, Nat.succ_mul, List.getElem?_append_right (by omega),
        show r * w + w + c - row.length = r * w + c by omega, ih]
      simp [Grid.cell?]

/-! ### The cell array -/

theorem overlayList_getElem? (cs : List Cell) (old : List (Option Cell)) (h : cs.length ≤ old.length) (k : Nat) :
    (overlayList cs old)[k]? = if k < cs.length then (cs[k]?).map some else old[k]? := by
  induction cs generalizing old k with
  | nil => simp [overlayList]
  | cons c cs ih =>
    cases old with
    | nil => simp at h
    | cons o old =>
      cases k with
      | zero => simp [overlayList]
      | succ k => simp [overlayList, ih old (by simpa using h)]

@[simp] theorem overlay_toList (cs : List Cell) (m : Vector (Option Cell) 625) :
    (overlay cs m).toList = overlayList cs m.toList := rfl

theorem allSome_eq_some {α : Type} {l : List (Option α)} {ys : List α} : allSome l = some ys ↔ l = ys.map some := by
  induction l generalizing ys with
  | nil => cases ys <;> simp [allSome]
  | cons x xs ih =>
    cases x with
    | none => cases ys <;> simp [allSome]
    | some x =>
      simp only [allSome]
      cases hx : allSome xs with
      | none =>
        cases ys with
        | nil => simp
        | cons y ys =>
          simp only [List.map_cons, List.cons.injEq, Option.some.injEq, reduceCtorEq, false_iff, not_and]
          exact fun _ hxs => by simp [ih.mpr hxs] at hx
      | some zs =>
        have := ih.mp hx
        subst this
        cases ys with
        | nil => simp
        | cons y ys => simp [List.map_inj_right fun _ _ h => Option.some.inj h]

/-- A version's matrix fits the array. -/
theorem Version.size_sq_le (v : Version) : v.size * v.size ≤ 625 := by cases v <;> decide

/-- What reading a grid from MATRIX answers: an N by N grid whose cell (r, c) is array cell r·N + c. -/
theorem State.readGrid_eq_some {s : State} {v : Version} {g : Grid} (h : s.readGrid v = some g) :
    g.Rect v.size v.size ∧ ∀ r c, r < v.size → c < v.size →
      s.matrix.toList[r * v.size + c]? = some (g.cell? r c) := by
  simp only [State.readGrid] at h
  split at h
  · cases h
  · rename_i cells hc
    cases h
    have hcells := allSome_eq_some.mp hc
    have hlen : cells.length = v.size * v.size := by
      have := congrArg List.length hcells
      have hv := v.size_sq_le
      rw [List.length_take, s.matrix.length_toList, List.length_map] at this
      omega
    refine ⟨rowsOf_rect hlen, fun r c hr hcs => ?_⟩
    have hk : r * v.size + c < v.size * v.size := by
      have : (r + 1) * v.size ≤ v.size * v.size := Nat.mul_le_mul_right _ hr
      rw [Nat.succ_mul] at this
      omega
    rw [rowsOf_cell? cells hr hcs]
    have := congrArg (fun l => l[r * v.size + c]?) hcells
    simp only [List.getElem?_take, hk, if_true, List.getElem?_map] at this
    rw [this, List.getElem?_eq_getElem (by omega)]
    rfl

/-- What the array holds after a grid of the version's size is written to it. -/
theorem State.writeGrid_getElem? {s : State} {v : Version} {g : Grid} (hg : g.Rect v.size v.size) :
    (∀ r c, r < v.size → c < v.size → (s.writeGrid g).matrix.toList[r * v.size + c]? = some (g.cell? r c)) ∧
    ∀ k, v.size * v.size ≤ k → (s.writeGrid g).matrix.toList[k]? = s.matrix.toList[k]? := by
  have hlen := Grid.flatten_length hg
  have hle : g.flatten.length ≤ s.matrix.toList.length := by
    have := v.size_sq_le
    rw [s.matrix.length_toList]
    omega
  refine ⟨fun r c hr hc => ?_, fun k hk => ?_⟩
  · have hk : r * v.size + c < v.size * v.size := by
      have : (r + 1) * v.size ≤ v.size * v.size := Nat.mul_le_mul_right _ hr
      rw [Nat.succ_mul] at this
      omega
    obtain ⟨cell, hcell⟩ := hg.cell?_isSome hr hc
    rw [State.writeGrid_matrix, overlay_toList, overlayList_getElem? _ _ hle, if_pos (by omega),
      Grid.flatten_getElem? hg hr hc, hcell]
    rfl
  · rw [State.writeGrid_matrix, overlay_toList, overlayList_getElem? _ _ hle, if_neg (by omega)]

/-- Reading back the grid that was just written. -/
theorem State.readGrid_of_cells {s : State} {v : Version} {cells : List Cell} (hl : cells.length = v.size * v.size)
    (h : ∀ k, k < v.size * v.size → s.matrix.toList[k]? = some cells[k]?) :
    s.readGrid v = some (rowsOf v.size v.size cells) := by
  have htake : s.matrix.toList.take (v.size * v.size) = cells.map some := by
    apply List.ext_getElem?
    intro k
    by_cases hk : k < v.size * v.size
    · rw [List.getElem?_take, if_pos hk, h k hk, List.getElem?_map, List.getElem?_eq_getElem (by omega)]
      rfl
    · rw [List.getElem?_take, if_neg hk, List.getElem?_map, List.getElem?_eq_none (by omega)]
      rfl
  simp only [State.readGrid, allSome_eq_some.mpr htake]

end Sys2Proof.Machine
end

