-- ==== Sys2Proof/Laws/PerInstr.lean ====
section
/-! SUPPORT. Per-command laws of the encoding: a command's word has the command's fields, and they pass the checks of R90. -/

namespace Sys2Proof

/-- Cutting a joined word into fields gives the fields back (R90). -/
theorem fieldsOf_word (f : CommandFields) : fieldsOf f.word = f := by
  obtain ⟨op, m, x, z⟩ := f
  simp only [fieldsOf, CommandFields.word, CommandFields.mk.injEq]
  refine ⟨?_, ?_, ?_, ?_⟩
  · ext i hi
    simp only [BitVec.getElem_extractLsb', BitVec.getLsbD_cast, BitVec.getLsbD_append]
    rw [if_pos (by omega)]
    simp [BitVec.getLsbD_eq_getElem hi]
  · ext i hi
    simp only [BitVec.getElem_extractLsb', BitVec.getLsbD_cast, BitVec.getLsbD_append]
    rw [if_neg (by omega), if_pos (by omega)]
    simp [BitVec.getLsbD_eq_getElem hi]
  · rw [BitVec.getLsbD_cast, BitVec.getLsbD_append, if_neg (by decide), BitVec.getLsbD_append, if_neg (by decide),
      BitVec.getLsbD_append, if_pos (by decide)]
    simp
  · ext i hi
    simp only [BitVec.getElem_extractLsb', BitVec.getLsbD_cast, BitVec.getLsbD_append]
    rw [if_neg (by omega), if_neg (by omega), if_neg (by omega)]
    rw [show 12 + i - 8 - 3 - 1 = i by omega]
    simp [BitVec.getLsbD_eq_getElem hi]

namespace Laws.EncodedFields

/-- A command's word has the command's fields (R90, R94), and the command is well formed. -/
def Statement (i : Instr) : Prop := fieldsOf (encode i) = i.fields ∧ i.wellFormed = true

theorem nop : Statement .nop := ⟨fieldsOf_word _, rfl⟩

theorem gfMul : Statement .gfMul := ⟨fieldsOf_word _, rfl⟩

theorem gfExp : Statement .gfExp := ⟨fieldsOf_word _, rfl⟩

theorem gfLog : Statement .gfLog := ⟨fieldsOf_word _, rfl⟩

theorem rsGen (x : Bool) : Statement (.rsGen x) := ⟨fieldsOf_word _, by cases x <;> rfl⟩

theorem rsEnc (x : Bool) : Statement (.rsEnc x) := ⟨fieldsOf_word _, by cases x <;> rfl⟩

theorem bsBuild : Statement .bsBuild := ⟨fieldsOf_word _, rfl⟩

theorem mxBuild : Statement .mxBuild := ⟨fieldsOf_word _, rfl⟩

theorem mxPlace : Statement .mxPlace := ⟨fieldsOf_word _, rfl⟩

theorem maskScore (m : BitVec 3) : Statement (.maskScore m) :=
  ⟨fieldsOf_word _, by simp [Instr.wellFormed, CommandFields.wellFormed, CommandFields.opcodeAssigned,
    CommandFields.maskOk, CommandFields.usesMask, CommandFields.xOk, CommandFields.zeroOk, Instr.fields]⟩

theorem maskSelect : Statement .maskSelect := ⟨fieldsOf_word _, rfl⟩

theorem tblCap : Statement .tblCap := ⟨fieldsOf_word _, rfl⟩

theorem tblGeom : Statement .tblGeom := ⟨fieldsOf_word _, rfl⟩

theorem tblFmt (m : BitVec 3) : Statement (.tblFmt m) :=
  ⟨fieldsOf_word _, by simp [Instr.wellFormed, CommandFields.wellFormed, CommandFields.opcodeAssigned,
    CommandFields.maskOk, CommandFields.usesMask, CommandFields.xOk, CommandFields.zeroOk, Instr.fields]⟩

theorem encode : Statement .encode := ⟨fieldsOf_word _, rfl⟩

end Laws.EncodedFields

end Sys2Proof
end

