-- ==== Sys2Proof/Laws/Placement.lean ====
section
/-! SUPPORT. The laws of the built matrix (R217), placement (R221), masking (R241) and the format write (R248): what each makes of every cell. -/

namespace Sys2Proof.Machine

/-- Writing the whole array. -/
theorem overlayList_full (cs : List Cell) (old : List (Option Cell)) (h : cs.length = old.length) :
    overlayList cs old = cs.map some := by
  induction cs generalizing old with
  | nil => cases old with
    | nil => rfl
    | cons o os => cases h
  | cons c cs ih => cases old with
    | nil => cases h
    | cons o os => simp only [overlayList, List.map_cons, ih os (by simpa using h)]

/-- Cell (r, c) of mxbuild(V). -/
theorem mxbuild_cell? {v : Version} {r c : Nat} (hr : r < v.size) (hc : c < v.size) :
    (mxbuild v).cell? r c = some (builtCell v r c) := by
  simp [mxbuild, Grid.cell?, hr, hc]

theorem mxbuild_rect (v : Version) : (mxbuild v).Rect v.size v.size := by
  refine ⟨by simp [mxbuild], fun r row h => ?_⟩
  simp only [mxbuild, List.getElem?_map, Option.map_eq_some_iff] at h
  obtain ⟨r', -, rfl⟩ := h
  simp

/-- A cell of the built matrix is Unset or Reserved. -/
theorem builtCell_cases (v : Version) (r c : Nat) : builtCell v r c = .unset ∨ ∃ b, builtCell v r c = .reserved b := by
  have hor : ∀ x y : Option Cell, (∀ k, x = some k → ∃ b, k = .reserved b) → (∀ k, y = some k → ∃ b, k = .reserved b) →
      ∀ k, x.or y = some k → ∃ b, k = .reserved b := by
    intro x y hx hy k h
    cases x with
    | none => exact hy k (by simpa using h)
    | some x' => exact hx k (by simpa using h)
  have hf : ∀ r0 c0 k, finderAt r0 c0 r c = some k → ∃ b, k = .reserved b := by
    intro r0 c0 k h
    simp only [finderAt] at h
    split at h
    · exact ⟨_, (Option.some.inj h).symm⟩
    · cases h
  have : ∀ k, (finders v.size r c).or ((separators v.size r c).or ((timing v.size r c).or ((alignment v r c).or
      ((darkModule v.size r c).or (formatArea v.size r c))))) = some k → ∃ b, k = .reserved b := by
    refine hor _ _ (hor _ _ (hf _ _) (hor _ _ (hf _ _) (hf _ _))) (hor _ _ ?_ (hor _ _ ?_ (hor _ _ ?_ (hor _ _ ?_ ?_))))
    · intro k h
      simp only [separators] at h
      split at h
      · exact ⟨_, (Option.some.inj h).symm⟩
      · cases h
    · intro k h
      simp only [timing] at h
      split at h
      · exact ⟨_, (Option.some.inj h).symm⟩
      · split at h
        · exact ⟨_, (Option.some.inj h).symm⟩
        · cases h
    · intro k h
      cases v with
      | v1 => cases h
      | v2 =>
        simp only [alignment] at h
        split at h
        · exact ⟨_, (Option.some.inj h).symm⟩
        · cases h
    · intro k h
      simp only [darkModule] at h
      split at h
      · exact ⟨_, (Option.some.inj h).symm⟩
      · cases h
    · intro k h
      simp only [formatArea] at h
      split at h
      · exact ⟨_, (Option.some.inj h).symm⟩
      · cases h
  simp only [builtCell]
  cases ho : (finders v.size r c).or ((separators v.size r c).or ((timing v.size r c).or ((alignment v r c).or
      ((darkModule v.size r c).or (formatArea v.size r c))))) with
  | none => exact .inl rfl
  | some k => exact .inr (this k ho)

theorem Grid.rect_mxplace {g : Grid} {h w : Nat} (hg : g.Rect h w) (order : List (Nat × Nat)) (bits : List Bool) :
    (mxplace g order bits).Rect h w := by
  simp only [mxplace]
  induction order.zip bits generalizing g with
  | nil => exact hg
  | cons p ps ih => exact ih (Grid.rect_setCell hg _ _ _)

/-- A cell outside the order is untouched (R221). -/
theorem mxplace_cell?_of_notMem {g : Grid} {order : List (Nat × Nat)} {bits : List Bool} {r c : Nat}
    (h : (r, c) ∉ order) : (mxplace g order bits).cell? r c = g.cell? r c := by
  simp only [mxplace]
  induction order generalizing g bits with
  | nil => rfl
  | cons p ps ih =>
    cases bits with
    | nil => rfl
    | cons b bs =>
      rw [List.mem_cons, not_or] at h
      rw [List.zip_cons_cons, List.foldl_cons, ih h.2, Grid.cell?_setCell, if_neg]
      exact fun hrc => h.1 (by rw [Prod.ext_iff]; exact hrc)

/-- The k-th bit goes to the k-th cell of an order without repeats (R221). -/
theorem mxplace_cell?_getElem {g : Grid} {order : List (Nat × Nat)} {bits : List Bool} {k r c : Nat} {b : Bool}
    (hnd : order.Nodup) (ho : order[k]? = some (r, c)) (hb : bits[k]? = some b) :
    (mxplace g order bits).cell? r c = (g.cell? r c).map (fun _ => .data b) := by
  induction order generalizing g bits k with
  | nil => simp at ho
  | cons p ps ih =>
    obtain ⟨hp, hnd⟩ := List.nodup_cons.mp hnd
    cases bits with
    | nil => simp at hb
    | cons b' bs =>
      have hstep : mxplace g (p :: ps) (b' :: bs) = mxplace (g.setCell p.1 p.2 (.data b')) ps bs := rfl
      rw [hstep]
      cases k with
      | zero =>
        simp only [List.getElem?_cons_zero, Option.some.injEq] at ho hb
        subst ho hb
        rw [mxplace_cell?_of_notMem hp, Grid.cell?_setCell, if_pos ⟨rfl, rfl⟩]
      | succ k =>
        simp only [List.getElem?_cons_succ] at ho hb
        have hmem : (r, c) ∈ ps := List.mem_of_getElem? ho
        rw [ih hnd ho hb, Grid.cell?_setCell, if_neg]
        rintro ⟨rfl, rfl⟩
        exact hp hmem

@[simp] theorem Cell.isReserved_maskWith (flip : Bool) (k : Cell) : (k.maskWith flip).isReserved = k.isReserved := by
  cases k <;> rfl

/-- Masking changes only Data cells, and only their colour (R241). -/
theorem applyMask_cell? (g : Grid) (m : BitVec 3) (r c : Nat) :
    (applyMask g m).cell? r c = (g.cell? r c).map (Cell.maskWith (maskPredicate m r c)) :=
  Grid.cell?_mapCells g _ r c

/-- The format write changes only the format cells (R248). -/
theorem writeFormat_cell? (n : Nat) (g : Grid) (f : BitVec 15) (r c : Nat) :
    (writeFormat n g f).cell? r c =
      match formatBitAt n r c with
      | some i => (g.cell? r c).map (fun _ => .reserved (f.getLsbD i))
      | none => g.cell? r c := by
  simp only [writeFormat, Grid.cell?_mapCells]
  cases formatBitAt n r c with
  | none => cases g.cell? r c <;> rfl
  | some i => rfl

end Sys2Proof.Machine
end

