-- ==== Sys2Proof/Tests/Slice0.lean ====
section
/-! SUPPORT. Tests with expected values from the spec (30_encoding, 95_test_vectors), ill-formed terms that the checks
refuse, and for every statement with hypotheses a state and operands that meet them. -/

namespace Sys2Proof.Tests

open Sys2Proof.Machine Sys2Proof.Spec

set_option Elab.async false

/-! ### Decoding: every command's word, bit by bit from R90 and R94 -/

/-- A word written as R90 draws it: zero [31:12], X [11], MASK [10:8], OPCODE [7:0]. -/
def drawn (zero : BitVec 20) (x : BitVec 1) (mask : BitVec 3) (opcode : BitVec 8) : Word := zero ++ x ++ mask ++ opcode

theorem test_decode_nop : decode (drawn 0#20 0#1 0b000#3 0b00000000#8) = some .nop := by decide

theorem test_decode_gfMul : decode (drawn 0#20 0#1 0b000#3 0b00000001#8) = some .gfMul := by decide

theorem test_decode_gfExp : decode (drawn 0#20 0#1 0b000#3 0b00000010#8) = some .gfExp := by decide

theorem test_decode_gfLog : decode (drawn 0#20 0#1 0b000#3 0b00000011#8) = some .gfLog := by decide

theorem test_decode_rsGen : decode (drawn 0#20 0#1 0b000#3 0b00000100#8) = some (.rsGen false) ∧
    decode (drawn 0#20 1#1 0b000#3 0b00000100#8) = some (.rsGen true) := by decide

theorem test_decode_rsEnc : decode (drawn 0#20 0#1 0b000#3 0b00000101#8) = some (.rsEnc false) ∧
    decode (drawn 0#20 1#1 0b000#3 0b00000101#8) = some (.rsEnc true) := by decide

theorem test_decode_bsBuild : decode (drawn 0#20 0#1 0b000#3 0b00000110#8) = some .bsBuild := by decide

theorem test_decode_mxBuild : decode (drawn 0#20 0#1 0b000#3 0b00000111#8) = some .mxBuild := by decide

theorem test_decode_mxPlace : decode (drawn 0#20 0#1 0b000#3 0b00001000#8) = some .mxPlace := by decide

theorem test_decode_maskScore : decode (drawn 0#20 0#1 0b110#3 0b00001001#8) = some (.maskScore 6#3) ∧
    decode (drawn 0#20 0#1 0b000#3 0b00001001#8) = some (.maskScore 0#3) := by decide

theorem test_decode_maskSelect : decode (drawn 0#20 0#1 0b000#3 0b00001010#8) = some .maskSelect := by decide

theorem test_decode_tblCap : decode (drawn 0#20 0#1 0b000#3 0b00001011#8) = some .tblCap := by decide

theorem test_decode_tblGeom : decode (drawn 0#20 0#1 0b000#3 0b00001100#8) = some .tblGeom := by decide

theorem test_decode_tblFmt : decode (drawn 0#20 0#1 0b001#3 0b00001101#8) = some (.tblFmt 1#3) ∧
    decode (drawn 0#20 0#1 0b111#3 0b00001101#8) = some (.tblFmt 7#3) := by decide

theorem test_decode_encode : decode (drawn 0#20 0#1 0b000#3 0b00001110#8) = some .encode := by decide

/-- R101: the illegal examples. -/
theorem test_decode_illegal : decode 0x0000000F#32 = none ∧ decode 0x00000101#32 = none ∧
    decode 0x0000080A#32 = none ∧ decode 0x00001000#32 = none := by decide

/-- The opcode table's words, read as the table numbers them. -/
theorem test_decodeTableWord : decodeTableWord 32 0x809 = none ∧ decodeTableWord 32 0x309 = some (.maskScore 3#3) ∧
    decodeTableWord 32 0x804 = some (.rsGen true) ∧ decodeTableWord 40 (2 ^ 32 + 1) = none := by decide

/-! ### Well-formedness: one ill-formed term for each check -/

/-- R91: opcode 0x0F is not assigned. -/
theorem test_illFormed_opcode : (CommandFields.mk 0x0F#8 0#3 false 0#20).opcodeAssigned = false ∧
    decode (CommandFields.mk 0x0F#8 0#3 false 0#20).word = none := by decide

/-- R90: MASK must be 0 in a command that does not use it. -/
theorem test_illFormed_mask : (CommandFields.mk 0x01#8 1#3 false 0#20).maskOk = false ∧
    decode (CommandFields.mk 0x01#8 1#3 false 0#20).word = none := by decide

/-- R90: X must be 0 in a command that does not use it. -/
theorem test_illFormed_x : (CommandFields.mk 0x0A#8 0#3 true 0#20).xOk = false ∧
    decode (CommandFields.mk 0x0A#8 0#3 true 0#20).word = none := by decide

/-- R90: bits 31:12 must be 0. -/
theorem test_illFormed_zero : (CommandFields.mk 0x00#8 0#3 false 1#20).zeroOk = false ∧
    decode (CommandFields.mk 0x00#8 0#3 false 1#20).word = none := by decide

/-- R99: `m=` on GF_MUL, `m=8` on MASK_SCORE, and `x` on ENCODE are refused, and the assembler names the statement. -/
theorem test_illFormed_command : (AsmStmt.command .GF_MUL (some 1) false).wellFormed = false ∧
    (AsmStmt.command .MASK_SCORE (some 8) false).wellFormed = false ∧
    (AsmStmt.run .ENCODE none true).wellFormed = false ∧
    (match assemble [.clr, .run .ENCODE none true] with
      | .error e => e == .illFormed (.run .ENCODE none true)
      | .ok _ => false) = true := by decide

/-- R99: a word index must be a multiple of 4. -/
theorem test_illFormed_index : (AsmStmt.wrw .data 2 0#32).wellFormed = false ∧ (AsmStmt.rdw .ec 1).wellFormed = false := by
  decide

/-- R60: an offset lies inside the 4096-byte space. -/
theorem test_illFormed_offset : (AsmStmt.wrb .matrix 0xC00 0#32).wellFormed = false ∧
    (AsmStmt.rdb .matrix 0xC00).wellFormed = false ∧
    (AsmStmt.wrs .matrix (List.replicate 0xC01 0#8)).wellFormed = false := by decide +kernel

/-- A branch to a label that stands nowhere is refused. -/
theorem test_undefined_label : (match assemble [.label 1, .bnz 2] with
      | .error e => e == .undefinedLabel 2
      | .ok _ => false) = true := by decide

/-- R100: `run` is a CMD write and a polling loop of its own. -/
theorem test_assemble_run : (match assemble [.wr .arg0 5#32, .run .RS_ENC none true] with
      | .ok p => p == [.access (.write 0x014#12 .word 5#32), .access (.write 0x00C#12 .word 0x805#32),
          .access (.read 0x008#12 .word), .bnz 2]
      | .error _ => false) = true := by decide

/-! ### One step of each command, with the vectors of 95_test_vectors -/

/-- A test of the next state. -/
def nextIs (o : Host.Outcome State Fault Refusal) (p : State → Bool) : Bool :=
  match o with
  | .next t => p t
  | .fault _ => false
  | .refused _ => false

/-- The outcome is one fault. -/
def faultIs (o : Host.Outcome State Fault Refusal) (f : Fault) : Bool :=
  match o with
  | .next _ => false
  | .fault g => f == g
  | .refused _ => false

/-- The next state of a command that completes, else the state itself. -/
def after (i : Instr) (s : State) : State :=
  match exec i s with
  | .next t => t
  | .fault _ => s
  | .refused _ => s

/-- A machine just out of reset with CONFIG and the arguments written. -/
def setup (config arg0 arg1 : Word) : State := { State.reset.writeConfig config with arg0 := arg0, arg1 := arg1 }

/-- One step that runs a command. -/
def stepOf (s : State) (i : Instr) : Host.Outcome State Fault Refusal := step (s.withFetchWord 32 (encode i).toNat)

/-- The bytes from an offset upward. -/
def bytesAt (t : State) (o n : Nat) : List (Option Byte) := (List.range n).map (fun k => t.byteAt (o + k))

def hello : List Byte := [0x48#8, 0x45#8, 0x4C#8, 0x4C#8, 0x4F#8]

def helloData : List Byte :=
  [0x40#8, 0x54#8, 0x84#8, 0x54#8, 0xC4#8, 0xC4#8, 0xF0#8, 0xEC#8, 0x11#8, 0xEC#8, 0x11#8, 0xEC#8, 0x11#8, 0xEC#8, 0x11#8,
    0xEC#8]

def helloEc : List Byte := [0x23#8, 0x73#8, 0x23#8, 0x99#8, 0xEC#8, 0x08#8, 0xC9#8, 0xF7#8, 0x37#8, 0xDF#8]

/-- A state with bytes written at a window offset. -/
def withBytes (s : State) (o : Nat) (vs : List Byte) : State := { s with mem := s.mem.setAll o vs }

/-- "HELLO" in TEXT at 1-M. -/
def helloText : State := withBytes (setup 5#32 5#32 0#32) 0x100 hello

/-- R270, and the acceptance and completion bits (R302). -/
theorem test_nop : nextIs (stepOf (setup 0#32 7#32 0#32) .nop) (fun t =>
    t.readReg .status == 0x2#32 && t.readReg .errcode == 0#32 && t.readReg .arg0 == 7#32) = true := by decide +kernel

/-- L2.1: 0x153 by 0x1CA. -/
theorem test_gfMul : nextIs (stepOf (setup 0#32 0x153#32 0x1CA#32) .gfMul) (fun t =>
    t.readReg .result == 0x8F#32) = true := by decide +kernel

/-- L2.1: 0x80 by 0x80, and the zero short-circuit. -/
theorem test_gfMul_corners : gmul 0x80#8 0x80#8 = 0x13#8 ∧ gmul 0x00#8 0x5A#8 = 0#8 ∧ gmul 0x5A#8 0x00#8 = 0#8 ∧
    gmul 0xFF#8 0xFF#8 = 0xE2#8 := by decide +kernel

/-- L2.1. -/
theorem test_gfExp : nextIs (stepOf (setup 0#32 255#32 0#32) .gfExp) (fun t => t.readReg .result == 1#32) = true ∧
    nextIs (stepOf (setup 0#32 0x102#32 0#32) .gfExp) (fun t => t.readReg .result == 4#32) = true := by decide +kernel

/-- L2.1. -/
theorem test_gfLog : nextIs (stepOf (setup 0#32 0x8E#32 0#32) .gfLog) (fun t => t.readReg .result == 254#32) = true := by
  decide +kernel

/-- L2.1: DOMAIN. -/
theorem test_gfLog_zero : nextIs (stepOf { setup 0#32 0x100#32 0#32 with result := 9#32 } .gfLog) (fun t =>
    t.readReg .result == 9#32 && t.readReg .errcode == 5#32 && t.readReg .errinfo == 0x303#32 &&
      t.readReg .status == 0x6#32) = true := by decide +kernel

/-- L2.2: n = 4, and CONFIG = 0 does not matter. -/
theorem test_rsGen : nextIs (stepOf (setup 0#32 0#32 4#32) (.rsGen true)) (fun t =>
    t.readReg .result == 5#32 &&
      bytesAt t 0x280 6 == [some 0x01#8, some 0x0F#8, some 0x36#8, some 0x78#8, some 0x40#8, none]) = true := by
  decide +kernel

/-- L2.2: BAD_ARGUMENT. -/
theorem test_rsGen_bad : nextIs (stepOf (setup 0#32 0#32 64#32) (.rsGen true)) (fun t =>
    t.readReg .errcode == 3#32 && t.readReg .errinfo == 0x404#32 && t.mem == []) = true := by decide +kernel

/-- L2.3: 12 34 56 with two codewords. -/
theorem test_rsEnc : nextIs (stepOf (withBytes (setup 0#32 3#32 2#32) 0x200 [0x12#8, 0x34#8, 0x56#8]) (.rsEnc true))
    (fun t => t.readReg .eclen == 2#32 && bytesAt t 0x240 3 == [some 0x98#8, some 0xE8#8, none]) = true := by
  decide +kernel

/-- L2.3: table mode right after reset faults UNINIT. -/
theorem test_rsEnc_uninit : faultIs (stepOf (setup 5#32 0#32 0#32) (.rsEnc false)) .uninit = true := by decide +kernel

/-- L2.4: "HELLO" at 1-M. -/
theorem test_bsBuild : nextIs (stepOf helloText .bsBuild) (fun t =>
    bytesAt t 0x200 16 == helloData.map some && t.readReg .bitcnt == 52#32 && t.readReg .dlen == 16#32) = true := by
  decide +kernel

/-- L2.4: one byte too many, before TEXT is read. -/
theorem test_bsBuild_capacity : nextIs (stepOf (setup 5#32 15#32 0#32) .bsBuild) (fun t =>
    t.readReg .errcode == 6#32 && t.readReg .errinfo == 0x606#32) = true := by decide +kernel

/-- L2.6.2: parts of rows 6 and 17 of the version 2 picture, by their bytes. -/
theorem test_mxBuild : nextIs (stepOf (setup 2#32 0#32 0#32) .mxBuild) (fun t =>
    t.readReg .mxstat == 0x1909#32 &&
      bytesAt t (0x400 + 17 * 25 + 8) 14 == [5, 0, 0, 0, 0, 0, 0, 0, 5, 4, 4, 4, 5, 0].map (fun v => some (BitVec.ofNat 8 v)) &&
      bytesAt t (0x400 + 6 * 25 + 5) 6 == [5, 5, 4, 5, 4, 5].map (fun v => some (BitVec.ofNat 8 v))) = true := by
  decide +kernel

/-- R218: an unsupported version. -/
theorem test_mxBuild_unsupported : nextIs (stepOf (setup 3#32 0#32 0#32) .mxBuild) (fun t =>
    t.readReg .errinfo == 0x707#32 && t.readReg .errcode == 2#32 && t.readReg .mxstat == 0#32) = true := by decide +kernel

/-- "HELLO" at 1-M with DATA, EC and the built matrix in place. -/
def helloBuilt : State := after .mxBuild (withBytes (withBytes helloText 0x200 helloData) 0x240 helloEc)

/-- L2.6.4: rows 19 and 20 of the PLACED matrix, columns 9 to 20, DARK bits. -/
theorem test_mxPlace : nextIs (stepOf helloBuilt .mxPlace) (fun t =>
    t.readReg .mxstat == 0x1506#32 &&
      bytesAt t (0x400 + 20 * 21 + 9) 12 ==
        [2, 2, 2, 2, 2, 2, 3, 3, 2, 2, 3, 2].map (fun v => some (BitVec.ofNat 8 v)) &&
      bytesAt t (0x400 + 19 * 21 + 9) 12 ==
        [2, 3, 3, 2, 3, 3, 3, 3, 3, 2, 2, 2].map (fun v => some (BitVec.ofNat 8 v))) = true := by decide +kernel

/-- L2.6.4: a version 1 matrix with CONFIG 2-M. -/
theorem test_mxPlace_underflow : nextIs (stepOf (helloBuilt.writeConfig 6#32) .mxPlace) (fun t =>
    t.readReg .errcode == 8#32 && t.readReg .errinfo == 0x808#32 && t.readReg .mxstat == 0x1505#32) = true := by
  decide +kernel

def helloPlaced : State := after .mxPlace helloBuilt

/-- L1.9: re-scoring mask 2 of "HELLO" at 1-M. -/
theorem test_maskScore : nextIs (stepOf helloPlaced (.maskScore 2#3)) (fun t =>
    t.readReg .score == 441#32 && t.readReg (.pen 0) == 211#32 && t.readReg (.pen 1) == 150#32 &&
      t.readReg (.pen 2) == 80#32 && t.readReg (.pen 3) == 0#32 && t.readReg .mxstat == 0x1506#32) = true := by
  decide +kernel

/-- R249: INVALID_STATE when not PLACED. -/
theorem test_maskScore_state : nextIs (stepOf helloBuilt (.maskScore 2#3)) (fun t =>
    t.readReg .errcode == 4#32 && t.readReg .errinfo == 0x909#32) = true := by decide +kernel

/-- L2.5. -/
theorem test_tblCap : nextIs (stepOf (setup 0xE#32 0#32 0#32) .tblCap) (fun t => t.readReg .result == 0x011C102C#32) = true ∧
    nextIs (stepOf (setup 0xF#32 0#32 0#32) .tblCap) (fun t => t.readReg .errinfo == 0xB0B#32) = true := by
  decide +kernel

/-- L2.5. -/
theorem test_tblGeom : nextIs (stepOf (setup 1#32 0#32 0#32) .tblGeom) (fun t => t.readReg .result == 0x0D000015#32) = true ∧
    nextIs (stepOf (setup 2#32 0#32 0#32) .tblGeom) (fun t => t.readReg .result == 0x16771219#32) = true := by
  decide +kernel

/-- L2.5. -/
theorem test_tblFmt : nextIs (stepOf (setup 6#32 0#32 0#32) (.tblFmt 2#3)) (fun t => t.readReg .result == 0x5E7C#32) = true ∧
    nextIs (stepOf (setup 1#32 0#32 0#32) (.tblFmt 7#3)) (fun t => t.readReg .result == 0x6976#32) = true := by
  decide +kernel

/-- L1.7, L2.7: ENCODE of "HELLO" at 1-M selects mask 2 with score 441, and so MASK_SELECT does as its last stage. -/
theorem test_encode : nextIs (stepOf helloText .encode) (fun t =>
    t.readReg .mask == 2#32 && t.readReg .score == 441#32 && t.readReg (.scores 0) == 469#32 &&
      t.readReg .mxstat == 0x1507#32 && t.readReg .errcode == 0#32 && bytesAt t 0x240 10 == helloEc.map some) = true := by
  decide +kernel

/-- R272: the error of the first stage. -/
theorem test_encode_capacity : nextIs (stepOf (setup 5#32 15#32 0#32) .encode) (fun t =>
    t.readReg .errcode == 6#32 && t.readReg .errinfo == 0x060E#32) = true := by decide +kernel

/-- R250: INVALID_STATE and the order of the checks. -/
theorem test_maskSelect_errors : nextIs (stepOf helloBuilt .maskSelect) (fun t =>
      t.readReg .errcode == 4#32 && t.readReg .errinfo == 0xA0A#32) = true ∧
    nextIs (stepOf (setup 0#32 0#32 0#32) .maskSelect) (fun t => t.readReg .errcode == 2#32) = true := by decide +kernel

/-! ### The parts of a score, and the bus -/

/-- L2.7.1: P_0 to P_7 at (2, 3), (3, 5) and (20, 20). -/
theorem test_maskPredicate : allMasks.map (fun m => maskPredicate m 2 3) = [false, true, true, false, true, true, true, false] ∧
    allMasks.map (fun m => maskPredicate m 3 5) = [true, false, false, false, true, false, false, true] ∧
    allMasks.map (fun m => maskPredicate m 20 20) = [true, true, false, false, true, false, false, false] := by decide

/-- A line of R242 written with `1` for dark. -/
def line (text : String) : List Bool := text.toList.map (fun c => c == '1')

/-- L2.7.2. -/
theorem test_lines : lineRuns (line "111110000111111111111") = 13 ∧ lineRuns (line "101110100001111111111") = 8 ∧
    lineFinders (line "101110100001111111111") = 1 ∧ lineFinders (line "101110100001011101000") = 2 ∧
    lineFinders (line "0000101110100001011101") = 3 := by decide +kernel

/-- L2.7.3: all light, and dark on odd rows. -/
theorem test_pictures :
    (let light := List.replicate 21 (List.replicate 21 false)
     [pen1Of light, pen2Of light, pen3Of light, pen4Of light] = [798, 1200, 0, 100]) ∧
    (let odd := (List.range 21).map (fun r => List.replicate 21 (r % 2 == 1))
     [pen1Of odd, pen2Of odd, pen3Of odd, pen4Of odd] = [399, 0, 0, 0]) := by decide +kernel

/-- R64: a 32-bit write of TEXT stores its bytes lowest first, and a 16-bit read joins two of them. -/
theorem test_window : nextIs (State.reset.access (.write 0x104#12 .word 0x44332211#32)) (fun t =>
    bytesAt t 0x104 4 == [some 0x11#8, some 0x22#8, some 0x33#8, some 0x44#8] &&
      nextIs (t.access (.read 0x106#12 .half)) (fun u => u.host.rdata == 0x4433#32)) = true := by decide +kernel

/-- R99: `rd ID; rdb TEXT[0]; bnz 7` branches on ID's bit 0, though TEXT[0] = 0x10 was read since. -/
theorem test_branch_on_rd :
    let s := (withBytes State.reset 0x100 [0x10#8]).loadHost [stmtRd .id, stmtRdBuf .text 0 .byte, .bnz 7]
    (match Host.Core.run Sys2Proof.core 3 s with
      | .next t => t.host.pc == 7 && t.host.rdata == 0x10#32 && t.host.rd == 0x51520007#32
      | .fault _ => false
      | .refused _ => false) = true := by decide +kernel

/-- R306, R23: a CMD write while pending sets OVR; a 1 written to bit 3 of STATUS clears it. -/
theorem test_overrun : nextIs ((State.reset.latch 0xE#32).access (.write 0x00C#12 .word 0#32)) (fun t =>
    t.cmdl == 0xE#32 && t.statusWord == 0x9#32 &&
      nextIs (t.access (.write 0x008#12 .word 0x8#32)) (fun u => u.statusWord == 0x1#32)) = true := by decide +kernel

/-- R313: a read of RESULT while a command is pending. -/
theorem test_hazard : faultIs ((State.reset.latch 0#32).access (.read 0x01C#12 .word)) .hazard = true := by decide +kernel

/-- R61, R62, R63. -/
theorem test_busErrors : faultIs (State.reset.access (.read 0x070#12 .word)) .busError = true ∧
    faultIs (State.reset.access (.write 0x010#12 .byte 1#32)) .busError = true ∧
    faultIs (State.reset.access (.read 0x201#12 .half)) .busError = true := by decide +kernel

/-- R95: a word of no row completes with ILLEGAL_COMMAND. -/
theorem test_illegal : nextIs (step (State.reset.withFetchWord 32 0x101)) (fun t =>
    t.readReg .errcode == 1#32 && t.readReg .errinfo == 0x0101#32 && t.readReg .status == 0x6#32) = true := by
  decide +kernel

/-! ### Witnesses: for every statement with hypotheses, states and operands that meet them -/

/-- A command that completes without error on a state. -/
def runs (i : Instr) (s : State) : Bool :=
  match exec i s with
  | .next t => !t.err && t.errCode == 0#4
  | .fault _ => false
  | .refused _ => false

theorem runs_spec {i : Instr} {s : State} (h : runs i s = true) :
    exec i s = .next (after i s) ∧ (after i s).err = false ∧ (after i s).errCode = 0#4 := by
  unfold runs at h
  unfold after
  split at h
  · rename_i t ht
    rw [ht]
    simpa using h
  · cases h
  · cases h

/-- What the test of a next state says. -/
theorem exists_of_nextIs {o : Host.Outcome State Fault Refusal} {p : State → Bool} (h : nextIs o p = true) :
    ∃ t, o = .next t ∧ p t = true := by
  unfold nextIs at h
  split at h
  · exact ⟨_, rfl, h⟩
  · cases h
  · cases h

theorem eq_of_faultIs {o : Host.Outcome State Fault Refusal} {f : Fault} (h : faultIs o f = true) : o = .fault f := by
  unfold faultIs at h
  split at h
  · cases h
  · rw [beq_iff_eq.mp h]
  · cases h

/-- `reset` with a pending word and a wait. -/
def pendingAt (w : Word) (d : Nat) : State := { State.reset.latch w with delay := d }

theorem witness_UnmatchedWordsAreIllegalCommands :
    (∃ (w : Word) (r : OpcodeRow), r ∈ opcodeMap ∧ r.selects w = true) ∧
    ∃ s : State, s.pending = true ∧ s.delay = 0 ∧ ∀ r ∈ opcodeMap, (s.cmdl &&& r.maskValue) ≠ r.matchValue :=
  ⟨⟨0x00000709#32, ⟨0x00000009#32, 0xFFFFF8FF#32, fun w => .maskScore (fieldsOf w).mask⟩, by simp [opcodeMap], by decide⟩,
    pendingAt 0xFFFFFFFF#32 0, rfl, rfl, by simp [opcodeMap, pendingAt, State.latch]⟩

/-- Legal at m=0 and m=7; illegal by `x`, by a mask on GF_MUL (the word then illegal too), and by m=8. -/
theorem witness_AssemblerWordsDecodeExactlyWhenLegal :
    let legal (mn : Mnemonic) (m : Option Nat) (x : Bool) : Prop :=
      (m = none ∨ (mn = .MASK_SCORE ∨ mn = .TBL_FMT) ∧ ∃ k, m = some k ∧ k < 8) ∧ (x = false ∨ mn = .RS_GEN ∨ mn = .RS_ENC)
    legal .MASK_SCORE (some 0) false ∧ legal .TBL_FMT (some 7) false ∧ legal .RS_ENC none true ∧
    (¬legal .ENCODE none true ∧ ∀ k, (none : Option Nat) = some k → 1 ≤ k ∧ k < 8) ∧
    (¬legal .GF_MUL (some 1) false ∧ ∀ k, some 1 = some k → 1 ≤ k ∧ k < 8) ∧ ¬legal .MASK_SCORE (some 8) false := by
  simp

theorem witness_StepRunsTheDecodedCommand :
    (∃ (s : State) (i : Instr), s.pending = true ∧ s.delay = 0 ∧ decode s.cmdl = some i) ∧
    (∃ (s : State) (n : Nat), s.pending = true ∧ s.delay = n + 1) ∧ (∃ s : State, s.pending = false) ∧
    (∃ (s : State) (a : BusAccess), s.host.prog[s.host.pc]? = some (.access a)) ∧
    (∃ (s : State) (n : Nat), s.host.prog[s.host.pc]? = some (.bnz n) ∧ s.host.rd.getLsbD 0 = true) ∧
    (∃ (s : State) (n : Nat), s.host.prog[s.host.pc]? = some (.bz n) ∧ s.host.rd.getLsbD 0 = false) ∧
    ∃ s : State, s.host.prog.length ≤ s.host.pc :=
  ⟨⟨pendingAt 0xE#32 0, .encode, rfl, rfl, by decide⟩, ⟨pendingAt 0xE#32 1, 0, rfl, rfl⟩, ⟨State.reset, rfl⟩,
    ⟨State.reset.loadHost [stmtRd .status], _, rfl⟩, ⟨(State.reset.loadHost [.bnz 5]).setRd 1#32, 5, rfl, by decide⟩,
    ⟨State.reset.loadHost [.bz 5], 5, rfl, by decide⟩, State.reset, Nat.le_refl 0⟩

theorem witness_PowerOnResetState : (0x100 ≤ 0x2BF ∧ 0x2BF < 0x2C0) ∧ 624 < 625 := by decide

theorem test_reset_inv : State.reset.Inv where
  memoryCanonical := by decide
  pendingClear := by decide
  errHasCode := by decide
  codeRange := by decide
  noCodeNoInfo := by decide
  scoreIsSum := by decide
  maskIsLeast := by decide
  cells := trivial

theorem witness_EveryStepKeepsTheMachineInvariant : ∃ s t : State, s.Inv ∧ step s = .next t :=
  ⟨State.reset, State.reset, test_reset_inv, rfl⟩

theorem witness_CommandsRightAfterReset : ∃ v : Word, v.setWidth 8 ≠ 0#8 := ⟨0xFF#32, by decide⟩

theorem witness_CtrlWriteResetsOrEnables : (∃ (s : State) (v : Word), v.getLsbD 1 = true ∧ s.pending = true) ∧
    (∃ (s : State) (v : Word), v.getLsbD 1 = true ∧ s.pending = false) ∧ ∃ v : Word, v.getLsbD 1 = false :=
  ⟨⟨pendingAt 0#32 3, 3#32, by decide, rfl⟩, ⟨State.reset, 2#32, by decide, rfl⟩, 1#32, by decide⟩

/-- The accesses at the edges of the regions that are no bus errors, and those next to them that are. -/
theorem witness_BusErrorsExactly :
    (¬badAccess (.read 0x06C#12 .word) ∧ ¬badAccess (.read 0x100#12 .byte) ∧ ¬badAccess (.write 0x2BE#12 .half 0#32) ∧
      ¬badAccess (.read 0x400#12 .word) ∧ ¬badAccess (.read 0x67C#12 .word)) ∧
    badAccess (.read 0x070#12 .word) ∧ badAccess (.read 0x0FF#12 .byte) ∧ badAccess (.read 0x2C0#12 .word) ∧
    badAccess (.read 0x3FC#12 .word) ∧ badAccess (.read 0x680#12 .byte) ∧ badAccess (.read 0x000#12 .half) ∧
    badAccess (.read 0x001#12 .word) ∧ badAccess (.read 0x101#12 .half) ∧ badAccess (.write 0x2BE#12 .word 0#32) := by
  and_intros <;> (simp only [badAccess]; decide)

theorem witness_HazardsExactly : (∃ (s : State) (a : BusAccess), ¬badAccess a ∧ s.pending = true ∧ ¬allowedWhileBusy a) ∧
    ∃ (s : State) (a : BusAccess), ¬badAccess a ∧ s.pending = true ∧ allowedWhileBusy a := by
  refine ⟨⟨pendingAt 0#32 1, .read 0x00C#12 .word, ?_, rfl, ?_⟩, pendingAt 0#32 1, .read 0x008#12 .word, ?_, rfl, .inl ?_⟩
  · simp only [badAccess]; decide
  · simp [allowedWhileBusy, readAt, writeAt, offset, registerOffset]
  · simp only [badAccess]; decide
  · decide

theorem witness_pending : (∃ s : State, s.pending = false) ∧ ∃ s : State, s.pending = true :=
  ⟨⟨State.reset, rfl⟩, pendingAt 0#32 0, rfl⟩

theorem witness_CmdWriteIsAcceptedOrDropped : (∃ s : State, s.pending = false) ∧ ∃ s : State, s.pending = true :=
  witness_pending

theorem witness_ConfigAndOperandRegisters : ∃ s : State, s.pending = false := witness_pending.1

theorem witness_IdRegisterIsConstant : ∃ s : State, s.pending = false := witness_pending.1

theorem witness_RegistersReadAndReadOnlyWritesAreIgnored : ∃ (s : State) (r : RegName), s.pending = false ∧
    r ∉ [RegName.ctrl, .status, .cmd, .config, .arg0, .arg1] := ⟨State.reset, .pen 3, rfl, by decide⟩

theorem witness_IrqFollowsEnableAndDone : (∃ s : State, s.irqen = true ∧ s.done = true) ∧
    (∃ i s t, exec i s = .next t) ∧
    (∃ (s : State) (v : Word) (t : State), v.getLsbD 1 = true ∧ s.access (writeAt .status v) = .next t) ∧
    ∃ (s : State) (w : Word) (t : State), s.pending = false ∧ s.access (writeAt .cmd w) = .next t :=
  ⟨⟨{ State.reset with irqen := true, done := true }, rfl, rfl⟩, ⟨.nop, State.reset, _, rfl⟩,
    ⟨State.reset, 2#32, _, by decide, rfl⟩, State.reset, 0#32, _, rfl, rfl⟩

/-- The last aligned word of each window. -/
theorem witness_WindowReadsAreLittleEndianWithFreeLanes : ∃ (s : State), s.pending = false ∧
    ∀ p ∈ [(0x1FC#12, BufName.text), (0x23C#12, .data), (0x27C#12, .ec), (0x2BC#12, .gen), (0x67C#12, .matrix)],
      regionOf p.1.toNat = .window p.2 ∧ p.1.toNat % Width.word.bytes = 0 := ⟨State.reset, rfl, by decide⟩

theorem witness_WindowWritesStoreTheirBytes : ∃ (s : State), s.pending = false ∧
    ∀ p ∈ [(0x1FE#12, BufName.text), (0x200#12, .data), (0x27E#12, .ec), (0x2BE#12, .gen), (0x67E#12, .matrix)],
      regionOf p.1.toNat = .window p.2 ∧ p.1.toNat % Width.half.bytes = 0 ∧
        (p.2 ∈ [BufName.text, .data, .ec] ∨ p.2 ∈ [BufName.gen, .matrix]) := ⟨State.reset, rfl, by decide⟩

theorem witness_HostReadsHaveNoSideEffects : ∃ (s t : State) (o : BitVec 12) (w : Width), s.access (.read o w) = .next t :=
  ⟨State.reset, _, 0x101#12, .byte, rfl⟩

theorem witness_HostReadsHaveNoSideEffects_window : 0x100 ≤ (0x100#12).toNat := by decide

theorem witness_HostWritesAreIdempotentExceptCmd : ∃ (s t : State) (o : BitVec 12) (w : Width) (v : Word), s.mem.wf ∧
    o ≠ 0x00C#12 ∧ s.access (.write o w v) = .next t :=
  ⟨State.reset, _, 0x110#12, .word, 5#32, by decide, by decide, rfl⟩

theorem witness_PendingCommandKeepsItsOperands : ∃ s t : State, s.pending = true ∧ step s = .next t ∧ t.pending = true :=
  ⟨pendingAt 0#32 1, _, rfl, rfl, rfl⟩

theorem witness_PendingCommandLeavesPendingInTime : ∃ s t : State, s.pending = true ∧
    Host.Core.run Sys2Proof.core (s.delay + 1) s = .next t := ⟨pendingAt 0#32 2, _, rfl, rfl⟩

theorem witness_FieldRomsFollowTheirDefinition : 255 < 256 ∧ 254 < 255 := by decide

theorem witness_GfMulIsTheReducedCarrylessProduct : (∃ a b : Byte, a = 0#8 ∨ b = 0#8) ∧
    ∃ a b la lb : Byte, gfLog? a = some la ∧ gfLog? b = some lb :=
  ⟨⟨0#8, 7#8, .inl rfl⟩, 0x53#8, 0xCA#8, 206#8, 73#8, by decide +kernel, by decide +kernel⟩

theorem witness_GfLogIsTheExponentOrDomainError :
    (∃ s : State, s.arg0.setWidth 8 ≠ 0#8) ∧ ∃ s : State, s.arg0.setWidth 8 = 0#8 :=
  ⟨⟨setup 0#32 0xFF#32 0#32, by decide⟩, setup 0#32 0xFFFFFF00#32 0#32, by decide⟩

theorem witness_FieldLawsHold : (∃ a l : Byte, gfLog? a = some l) ∧ ∃ v : Byte, v ≠ 0#8 :=
  ⟨⟨0xFF#8, 175#8, by decide +kernel⟩, 1#8, by decide⟩

theorem witness_GeneratorIsTheProductOfItsFactors : (62 < 63 ∧ 63 ≤ 62 + 1) ∧ 63 ≤ 63 ∧ 62 < 63 := by decide

theorem witness_DataWithRemainderHasZeroSyndromes : ∃ n i : Nat, n ≤ 63 ∧ i < n := ⟨63, 62, by decide, by decide⟩

theorem witness_RemainderIsLinearOfFixedLength : ∃ d d' : List Byte, d.length = d'.length :=
  ⟨[1#8, 2#8], [3#8, 4#8], rfl⟩

theorem witness_supports : (∃ s, supports s .v1) ∧ (∃ s, supports s .v2) ∧ ∃ s, unsupported s :=
  ⟨⟨setup 0xD#32 0#32 0#32, rfl⟩, ⟨setup 0x2#32 0#32 0#32, rfl⟩, setup 3#32 0#32 0#32, .inr rfl⟩

theorem witness_RsGenWritesTheGenerator : (∃ s : State, s.arg1.toNat ≤ 63) ∧ (∃ s v, supports s v) ∧
    (∃ s : State, 63 < s.arg1.toNat) ∧ ∃ s, unsupported s :=
  ⟨⟨setup 0#32 0#32 63#32, by decide⟩, ⟨_, _, witness_supports.1.choose_spec⟩, ⟨setup 0#32 0#32 64#32, by decide⟩,
    witness_supports.2.2⟩

/-- DATA all written, at the limits of explicit mode. -/
theorem witness_RsEncWritesTheRemainder :
    (∃ (s : State) (d : List Byte), s.arg0.toNat = 64 ∧ s.arg1.toNat = 63 ∧ d.length = 64 ∧ holds s 0x200 d) ∧
    (∃ (s : State) (v : Version) (d : List Byte), supports s v ∧ d.length = (capacity v s.level).dataCount ∧
      holds s 0x200 d) ∧
    (∃ (s : State) (v : Version), supports s v ∧ lacks s 0x200 (capacity v s.level).dataCount) ∧
    (∃ s : State, 64 < s.arg0.toNat) ∧ (∃ s : State, 63 < s.arg1.toNat) ∧ ∃ s, unsupported s := by
  refine ⟨⟨withBytes (setup 0#32 64#32 63#32) 0x200 (List.replicate 64 0xFF#8), List.replicate 64 0xFF#8, rfl, rfl,
      List.length_replicate, ?_⟩, ⟨withBytes (setup 5#32 0#32 0#32) 0x200 helloData, .v1, helloData, rfl, by decide, ?_⟩,
    ⟨withBytes (setup 1#32 0#32 0#32) 0x200 (List.replicate 18 1#8), .v1, rfl, 18, by decide, by decide +kernel⟩,
    ⟨setup 0#32 65#32 0#32, by decide⟩, ⟨setup 0#32 0#32 64#32, by decide⟩, witness_supports.2.2⟩
  · unfold holds; decide +kernel
  · unfold holds; decide +kernel

/-- 14 bytes are the limit of 1-M (L1.8). -/
def fourteen : State := withBytes (setup 5#32 14#32 0#32) 0x100 ((List.range 14).map (fun k => BitVec.ofNat 8 (0x41 + k)))

theorem fourteen_holds : holds fourteen 0x100 ((List.range 14).map (fun k => BitVec.ofNat 8 (0x41 + k))) := by
  unfold holds; decide +kernel

theorem witness_BsBuildWritesTheDataCodewords :
    (∃ (s : State) (v : Version), supports s v ∧ 8 * (capacity v s.level).dataCount < 12 + 8 * s.arg0.toNat) ∧
    (∃ (s : State) (v : Version) (p : List Byte), supports s v ∧ 12 + 8 * s.arg0.toNat ≤ 8 * (capacity v s.level).dataCount ∧
      p.length = s.arg0.toNat ∧ holds s 0x100 p) ∧
    (∃ (s : State) (v : Version), supports s v ∧ 12 + 8 * s.arg0.toNat ≤ 8 * (capacity v s.level).dataCount ∧
      lacks s 0x100 s.arg0.toNat) ∧ ∃ s, unsupported s :=
  ⟨⟨setup 5#32 15#32 0#32, .v1, rfl, by decide⟩,
    ⟨fourteen, .v1, _, rfl, by decide, by decide, fourteen_holds⟩,
    ⟨withBytes (setup 5#32 5#32 0#32) 0x100 (hello.take 4), .v1, rfl, by decide, 4, by decide, by decide +kernel⟩,
    witness_supports.2.2⟩

theorem witness_TableCommandsPackTheirResults :
    (∃ (s : State) (v : Version) (l : EccLevel) (tt d e b : Nat), (v, l, tt, d, e, b) ∈ capacityRows ∧ supports s v ∧
      s.ecc = l.code) ∧ (∃ s, supports s .v1) ∧ (∃ s, supports s .v2) ∧ ∃ s, unsupported s :=
  ⟨⟨setup 0xE#32 0#32 0#32, .v2, .H, 44, 16, 28, 1, by decide, rfl, rfl⟩, witness_supports⟩

theorem witness_TablesAreConsistent : ∃ (l l' : EccLevel) (m m' : BitVec 3), formatWord l m = formatWord l' m' :=
  ⟨.H, .H, 7#3, 7#3, rfl⟩

theorem witness_FunctionPatternsStandWhereTheRulesSay :
    ((0, 14) ∈ [(0, 0), (0, Version.v1.size - 7), (Version.v1.size - 7, 0)] ∧ 6 < 7) ∧ 7 < 8 ∧
    (16 < Version.v2.size - 8 ∧ 8 ≤ 16) ∧ 4 < 5 ∧
    (formatCells1[14]? = some (8, 0) ∧ (formatCells2 21)[14]? = some (20, 8)) := by decide

theorem witness_ZigzagOrderListsEveryFreeCellOnce : (20, 20) ∈ placementOrder Version.v1.size (mxbuild .v1) ∧
    20 < Version.v1.size := by decide +kernel

theorem witness_MxBuildBuildsInEveryState : (∃ s v, supports s v) ∧ (20 < Version.v1.size ∧
    Version.v1.size * Version.v1.size ≤ 624 ∧ 624 < 625) ∧ ∃ s, unsupported s :=
  ⟨⟨_, _, witness_supports.1.choose_spec⟩, by decide, witness_supports.2.2⟩

/-- A BUILT matrix of a version. -/
def builtState (config : Word) (v : Version) : State :=
  { setup config 0#32 0#32 with mx := .built v, matrix := overlay (mxbuildCells v) State.reset.matrix }

theorem builtState_cellsOk (config : Word) (v : Version) : (builtState config v).CellsOk := by
  show (builtState config v).matrix.toList = (mxbuildCells v).map some
  rw [builtState, overlay_toList]
  exact overlayList_full _ _ (by cases v <;> decide +kernel)

/-- A PLACED matrix of a version: every free cell is light data. -/
def placedGrid (v : Version) : Grid :=
  (mxbuild v).mapCells (fun _ _ cell => if cell.isReserved then cell else .data false)

def blankState (config : Word) : State := { setup config 0#32 0#32 with matrix := Vector.replicate 625 (some .unset) }

def placedState (config : Word) (v : Version) : State := { (blankState config).writeGrid (placedGrid v) with mx := .placed v }

theorem placedState_matrix (config : Word) (v : Version) :
    (placedState config v).matrix = ((blankState config).writeGrid (placedGrid v)).matrix := rfl

theorem placedGrid_rect (v : Version) : (placedGrid v).Rect v.size v.size := Grid.rect_mapCells (mxbuild_rect v) _

theorem placedState_cellsOk (config : Word) (v : Version) : (placedState config v).CellsOk := by
  have h := State.writeGrid_getElem? (s := blankState config) (placedGrid_rect v)
  refine ⟨fun r c hr hc => ?_, fun k hk hk' => ?_⟩
  · have := h.1 r c hr hc
    rw [placedState_matrix, this, placedGrid, Grid.cell?_mapCells, mxbuild_cell? hr hc]
    obtain h' | ⟨b, h'⟩ := builtCell_cases v r c <;> simp [cellOk, h', Cell.isReserved]
  · have := h.2 k hk
    rw [placedState_matrix, this]
    rw [show (blankState config).matrix = Vector.replicate 625 (some .unset) from rfl, Vector.toList_replicate,
      List.getElem?_replicate, if_pos hk']

theorem placedState_readGrid (config : Word) (v : Version) : ∃ g, (placedState config v).readGrid v = some g := by
  have h := State.writeGrid_getElem? (s := blankState config) (placedGrid_rect v)
  refine ⟨_, State.readGrid_of_cells (cells := (placedGrid v).flatten) (Grid.flatten_length (placedGrid_rect v)) ?_⟩
  intro k hk
  have hv : 0 < v.size := by cases v <;> decide
  have hr : k / v.size < v.size := Nat.div_lt_of_lt_mul hk
  have hc : k % v.size < v.size := Nat.mod_lt _ hv
  have hk' : k / v.size * v.size + k % v.size = k := by rw [Nat.mul_comm]; exact Nat.div_add_mod k v.size
  have h1 := h.1 _ _ hr hc
  have h2 := Grid.flatten_getElem? (placedGrid_rect v) hr hc
  rw [hk'] at h1 h2
  rw [h2]
  exact h1

theorem witness_MxPlacePlacesTheBitSupply :
    (∃ (s : State) (v : Version) (d e : List Byte), supports s v ∧ s.mx = .built v ∧ s.CellsOk ∧
      d.length = (capacity v s.level).dataCount ∧ e.length = (capacity v s.level).ecCount ∧ holds s 0x200 d ∧
      holds s 0x240 e) ∧
    ∃ (s : State) (v : Version), supports s v ∧ s.mx = .built v ∧ s.CellsOk ∧
      (lacks s 0x200 (capacity v s.level).dataCount ∨ lacks s 0x240 (capacity v s.level).ecCount) := by
  refine ⟨⟨withBytes (withBytes (builtState 5#32 .v1) 0x200 helloData) 0x240 helloEc, .v1, helloData, helloEc, rfl, rfl,
      builtState_cellsOk 5#32 .v1, by decide, by decide, ?_, ?_⟩, builtState 2#32 .v2, .v2, rfl, rfl,
    builtState_cellsOk 2#32 .v2, .inl ⟨33, by decide, rfl⟩⟩
  · unfold holds; decide +kernel
  · unfold holds; decide +kernel

theorem witness_MxPlaceReportsItsErrors : (∃ s, unsupported s) ∧
    (∃ s v, supports s v ∧ ∀ mv, s.mx ≠ .built mv) ∧
    (∃ s : State, supports s .v1 ∧ s.mx = .built .v2 ∧ s.CellsOk) ∧
    ∃ s : State, supports s .v2 ∧ s.mx = .built .v1 ∧ s.CellsOk :=
  ⟨witness_supports.2.2, ⟨placedState 5#32 .v1, .v1, rfl, fun mv h => by cases h⟩,
    ⟨builtState 5#32 .v2, rfl, rfl, builtState_cellsOk _ _⟩, builtState 6#32 .v1, rfl, rfl, builtState_cellsOk _ _⟩

theorem witness_MaskingFlipsDataCellsAndIsAnInvolution : ∃ (g : Grid) (b : Bool) (k : Cell),
    g.cell? 0 0 = some (.data b) ∧ (g.cell? 0 1 = some k ∧ ∀ b, k ≠ .data b) ∧ g.cell? 1 0 = none :=
  ⟨[[.data true, .reserved true]], true, .reserved true, rfl, ⟨rfl, by simp⟩, rfl⟩

theorem picture_square {g : Grid} {n : Nat} (h : g.Rect n n) : square (picture g) n := by
  refine ⟨by simp [picture, h.1], fun row hrow => ?_⟩
  simp only [picture, List.mem_map] at hrow
  obtain ⟨row', hrow', rfl⟩ := hrow
  obtain ⟨r, hr⟩ := List.mem_iff_getElem?.mp hrow'
  simpa using h.2 r row' hr

theorem witness_PenaltyRulesCountWhatTheySay : ∃ rows, square rows 25 := ⟨_, picture_square (placedGrid_rect .v2)⟩

theorem witness_PenaltiesStayBelowTheirBound : ∃ g : Grid, square (picture g) 25 ∧ 25 ≤ 25 :=
  ⟨_, picture_square (placedGrid_rect .v2), by decide⟩

theorem witness_MaskScoreScoresItsCandidate : (∃ (s : State) (v : Version), s.mx = .placed v ∧ s.CellsOk) ∧
    ∃ s : State, ∀ v, s.mx ≠ .placed v :=
  ⟨⟨placedState 0#32 .v2, .v2, rfl, placedState_cellsOk _ _⟩, builtState 5#32 .v1, fun v h => by cases h⟩

/-- The matrix may be of another version than CONFIG's. -/
theorem witness_MaskSelectKeepsTheFirstLeastMask :
    (∃ (s : State) (v mv : Version), supports s v ∧ s.mx = .placed mv ∧ s.CellsOk) ∧ (∃ s, unsupported s) ∧
    ∃ (s : State) (v : Version), supports s v ∧ ∀ mv, s.mx ≠ .placed mv :=
  ⟨⟨placedState 5#32 .v2, .v1, .v2, rfl, rfl, placedState_cellsOk _ _⟩, witness_supports.2.2,
    builtState 5#32 .v1, .v1, rfl, fun mv h => by cases h⟩

theorem select_and_score {s : State} {v mv : Version} {g : Grid} (hs : supports s v) (hm : s.mx = .placed mv)
    (hg : s.readGrid mv = some g) : ∃ t u, exec .maskSelect s = .next t ∧ exec (.maskScore t.mask) s = .next u := by
  have hv : s.checkedVersion = .ok v := State.checkedVersion_eq_ok.mpr hs
  have hp : s.placedVersion = .ok mv := by rw [State.placedVersion, hm]
  have h1 : ∃ t, exec .maskSelect s = .next t := by
    simp [exec, execMaskSelect, runStages, bodyMaskSelect, hv, hp, hg]
  obtain ⟨t, ht⟩ := h1
  have h2 : ∃ u, exec (.maskScore t.mask) s = .next u := by
    simp [exec, execMaskScore, runStages, bodyMaskScore, hp, hg]
  obtain ⟨u, hu⟩ := h2
  exact ⟨t, u, ht, hu⟩

theorem placedState_supports : supports (placedState 5#32 .v1) .v1 := rfl

theorem witness_RescoringReproducesTheSelectedScores : ∃ (s t u : State) (v mv : Version) (m : BitVec 3), supports s v ∧
    s.mx = .placed mv ∧ exec .maskSelect s = .next t ∧ exec (.maskScore m) s = .next u ∧ m = t.mask := by
  obtain ⟨g, hg⟩ := placedState_readGrid 5#32 .v1
  obtain ⟨t, u, ht, hu⟩ := select_and_score placedState_supports rfl hg
  exact ⟨placedState 5#32 .v1, t, u, .v1, .v1, t.mask, placedState_supports, rfl, ht, hu, rfl⟩

theorem witness_EncodeEqualsItsStagesInSequence : ∃ s s1 s2 s3 s4 s5 : State, s.err = false ∧
    exec .bsBuild s = .next s1 ∧ s1.err = false ∧ exec (.rsEnc false) s1 = .next s2 ∧ s2.err = false ∧
    exec .mxBuild s2 = .next s3 ∧ s3.err = false ∧ exec .mxPlace s3 = .next s4 ∧ s4.err = false ∧
    exec .maskSelect s4 = .next s5 ∧ s5.err = false := by
  have h1 := runs_spec (i := .bsBuild) (s := helloText) (by decide +kernel)
  have h2 := runs_spec (i := .rsEnc false) (s := after .bsBuild helloText) (by decide +kernel)
  have h3 := runs_spec (i := .mxBuild) (s := after (.rsEnc false) (after .bsBuild helloText)) (by decide +kernel)
  have h4 := runs_spec (i := .mxPlace) (s := after .mxBuild (after (.rsEnc false) (after .bsBuild helloText)))
    (by decide +kernel)
  have h5 := runs_spec (i := .maskSelect)
    (s := after .mxPlace (after .mxBuild (after (.rsEnc false) (after .bsBuild helloText)))) (by decide +kernel)
  exact ⟨helloText, _, _, _, _, _, rfl, h1.1, h1.2.1, h2.1, h2.2.1, h3.1, h3.2.1, h4.1, h4.2.1, h5.1, h5.2.1⟩

theorem witness_EncodeCompletesFromAnyState :
    (∃ (s : State) (v : Version), supports s v ∧ 8 * (capacity v s.level).dataCount < 12 + 8 * s.arg0.toNat) ∧
    (∃ (s : State) (v : Version) (p : List Byte), supports s v ∧ 12 + 8 * s.arg0.toNat ≤ 8 * (capacity v s.level).dataCount ∧
      p.length = s.arg0.toNat ∧ holds s 0x100 p) ∧
    (∃ (s : State) (v : Version), supports s v ∧ 12 + 8 * s.arg0.toNat ≤ 8 * (capacity v s.level).dataCount ∧
      lacks s 0x100 s.arg0.toNat) ∧ ∃ s, unsupported s := witness_BsBuildWritesTheDataCodewords

theorem witness_EncodeDependsOnlyOnPayloadAndConfig : ∃ s s' t : State, s ≠ s' ∧ s.version = s'.version ∧ s.ecc = s'.ecc ∧
    s.arg0 = s'.arg0 ∧ (∀ k, k < s.arg0.toNat → s.byteAt (0x100 + k) = s'.byteAt (0x100 + k)) ∧
    exec .encode s = .next t ∧ t.errCode = 0#4 := by
  have h := runs_spec (i := .encode) (s := helloText) (by decide +kernel)
  refine ⟨helloText, { helloText with result := 7#32, mx := .masked .v2 }, _, ?_, rfl, rfl, rfl, fun _ _ => rfl, h.1, h.2.2⟩
  intro h'
  have := congrArg State.result h'
  revert this
  decide

theorem witness_FailedCommandsChangeOnlyStatusAndErrors : ∃ (i : Instr) (s t : State), s.err = false ∧
    exec i s = .next t ∧ t.err = true := ⟨.encode, State.reset, _, rfl, rfl, rfl⟩

theorem witness_EveryCommandEndsOrFaultsUninit : ∃ (i : Instr) (s : State), s.CellsOk ∧ exec i s = .fault .uninit :=
  ⟨.rsEnc false, setup 5#32 0#32 0#32, trivial, eq_of_faultIs (by decide +kernel)⟩

/-- One command for each premise: NOP is none of the writers, and MASK_SCORE is none of the matrix writers. -/
theorem witness_CommandsWriteOnlyTheirRegisters : ∃ (i : Instr) (s t : State), exec i s = .next t ∧
    writesResult i = false ∧ i ∉ [Instr.bsBuild, .encode] ∧ i ∉ [Instr.rsEnc false, .rsEnc true, .encode] ∧
    i ∉ [Instr.mxBuild, .mxPlace, .maskSelect, .encode] ∧ i ∉ [Instr.maskSelect, .encode] ∧ ∀ m, i ≠ .maskScore m :=
  ⟨.nop, State.reset, _, rfl, rfl, by decide, by decide, by decide, by decide, by simp⟩

/-- The last byte of DATA past D, of EC past its count and of GEN past the coefficients, and the first cell. -/
theorem witness_CommandsWriteOnlyTheirBuffers :
    (∃ (s t : State), exec .bsBuild s = .next t ∧ 0x200 + t.dlen.toNat ≤ 0x23F) ∧
    (∃ (s t : State), exec (.rsEnc true) s = .next t ∧ 0x240 + t.eclen.toNat ≤ 0x27F) ∧
    (∃ (s t : State), exec (.rsGen true) s = .next t ∧ 0x280 + t.result.toNat ≤ 0x2BF) ∧
    ∃ (s t : State), exec .nop s = .next t ∧ 0x1FF < 0x200 ∧ 0x2C0 ≤ 0x400 ∧
      Instr.nop ∉ [Instr.mxBuild, .mxPlace, .maskSelect, .encode] := by
  refine ⟨?_, ?_, ?_, State.reset, _, rfl, by decide, by decide, by decide⟩
  · obtain ⟨t, h, h'⟩ := exists_of_nextIs (o := exec .bsBuild helloText) (p := fun t => 0x200 + t.dlen.toNat ≤ 0x23F)
      (by decide +kernel)
    exact ⟨_, t, h, by simpa using h'⟩
  · obtain ⟨t, h, h'⟩ := exists_of_nextIs (o := exec (.rsEnc true) (setup 0#32 0#32 63#32))
      (p := fun t => 0x240 + t.eclen.toNat ≤ 0x27F) (by decide +kernel)
    exact ⟨_, t, h, by simpa using h'⟩
  · obtain ⟨t, h, h'⟩ := exists_of_nextIs (o := exec (.rsGen true) (setup 0#32 0#32 62#32))
      (p := fun t => 0x280 + t.result.toNat ≤ 0x2BF) (by decide +kernel)
    exact ⟨_, t, h, by simpa using h'⟩

end Sys2Proof.Tests
end

section
/-! The rules of the register interface: what a read or a write at a register's offset does, each proved once from the
laws of the address map, and the obligations on single registers that follow from them. -/

namespace Sys2Proof.Proofs

open Sys2Proof Sys2Proof.Machine Sys2Proof.Spec

/-! ### Registers through the bus -/

/-- The offsets of the statements are those of the map. -/
theorem registerOffset_eq_offset (r : RegName) : registerOffset r = r.offset := by
  cases r <;> rfl

theorem offset_registerOffset_toNat (r : RegName) : (offset (registerOffset r)).toNat = r.offset := by
  have := r.offset_range
  simp only [offset, registerOffset_eq_offset, BitVec.toNat_ofNat]
  omega

theorem regionOf_registerOffset (r : RegName) : regionOf r.offset = .registers :=
  regionOf_registers.mpr r.offset_range.1

theorem readAt_offset (r : RegName) : (readAt r).offset = r.offset := offset_registerOffset_toNat r

theorem writeAt_offset (r : RegName) (v : Word) : (writeAt r v).offset = r.offset := offset_registerOffset_toNat r

/-- A word access at a register's offset is no bus error (R61, R62). -/
theorem busError_eq_false_of_register {a : BusAccess} {r : RegName} (ho : a.offset = r.offset) (hw : a.width = .word) :
    a.busError = false := by
  simp [BusAccess.busError, ho, hw, regionOf_registerOffset, r.offset_range.2]

theorem allowedWhilePending_readAt (r : RegName) : (readAt r).allowedWhilePending = (r == .status) := by
  simp [readAt, BusAccess.allowedWhilePending, offset_registerOffset_toNat]

theorem allowedWhilePending_writeAt (r : RegName) (v : Word) :
    (writeAt r v).allowedWhilePending = (r == .status || r == .ctrl || r == .cmd) := by
  simp [writeAt, BusAccess.allowedWhilePending, offset_registerOffset_toNat]

/-- A register read that is no hazard answers the register's value and changes only the host (R67, R313). -/
theorem access_readAt {s : State} {r : RegName} (h : s.pending = true → r = .status) :
    s.access (readAt r) = .next (afterRd s (s.readReg r)) := by
  have hbus : (readAt r).busError = false := busError_eq_false_of_register (readAt_offset r) rfl
  have hok : (s.pending && !(readAt r).allowedWhilePending) = false := by
    cases hp : s.pending with
    | false => rfl
    | true => simp [allowedWhilePending_readAt, h hp]
  rw [State.access, hbus, hok]
  simp [State.perform, readAt, offset_registerOffset_toNat, regionOf_registerOffset, afterRd, State.setRd]

/-- A register write that is no hazard does what the register does (R21, R313). -/
theorem access_writeAt {s : State} {r : RegName} (v : Word)
    (h : s.pending = true → r = .status ∨ r = .ctrl ∨ r = .cmd) :
    s.access (writeAt r v) = .next (s.writeReg r v) := by
  have hbus : (writeAt r v).busError = false := busError_eq_false_of_register (writeAt_offset r v) rfl
  have hok : (s.pending && !(writeAt r v).allowedWhilePending) = false := by
    cases hp : s.pending with
    | false => rfl
    | true => rcases h hp with rfl | rfl | rfl <;> simp [allowedWhilePending_writeAt]
  rw [State.access, hbus, hok]
  simp [State.perform, writeAt, offset_registerOffset_toNat, regionOf_registerOffset]

/-! ### What each register reads -/

theorem statusWord_toNat (s : State) :
    s.statusWord.toNat = s.pending.toNat + 2 * s.done.toNat + 4 * s.err.toNat + 8 * s.ovr.toNat := by
  simp only [State.statusWord]
  generalize s.pending = p, s.done = d, s.err = e, s.ovr = o
  revert p d e o
  decide

theorem configWord_toNat (s : State) : s.configWord.toNat = s.version.toNat + 4 * s.ecc.toNat := by
  simp only [State.configWord]
  generalize s.version = v, s.ecc = e
  revert v e
  decide

theorem errinfoWord_toNat (s : State) : s.errinfoWord.toNat = s.errOp.toNat + 256 * s.errStage.toNat := by
  have hop := s.errOp.isLt
  have hst := s.errStage.isLt
  rw [State.errinfoWord, BitVec.toNat_setWidth, BitVec.toNat_append, ← Nat.shiftLeft_add_eq_or_of_lt hop,
    Nat.shiftLeft_eq]
  omega

theorem mxWord_toNat (m : MxState) : m.word.toNat = mxstatValue m := by
  cases m with
  | empty => rfl
  | built v => cases v <;> rfl
  | placed v => cases v <;> rfl
  | masked v => cases v <;> rfl

/-- Every register reads the number its fields make (R22 to R39). -/
theorem readReg_toNat (s : State) (r : RegName) : (s.readReg r).toNat = registerValue s r := by
  have widen : ∀ {n : Nat} (b : BitVec n), n ≤ 32 → (b.setWidth 32).toNat = b.toNat := fun b hn => by
    rw [BitVec.toNat_setWidth, Nat.mod_eq_of_lt (b.isLt.trans_le (Nat.pow_le_pow_right (by decide) hn))]
  cases r with
  | ctrl => rw [State.readReg, widen _ (by decide), BitVec.toNat_ofBool]; rfl
  | status => exact statusWord_toNat s
  | config => exact configWord_toNat s
  | errinfo => exact errinfoWord_toNat s
  | mxstat => exact mxWord_toNat s.mx
  | errcode | dlen | eclen | bitcnt | mask => exact widen _ (by decide)
  | pen k => revert k; simp [Fin.forall_fin_succ, State.readReg, registerValue]
  | id | cmd | arg0 | arg1 | result | score | scores => rfl

/-- Only CTRL, STATUS, CMD, CONFIG, ARG0 and ARG1 take a write (R21). -/
theorem writeReg_of_readOnly {r : RegName} (h : r ∉ [RegName.ctrl, .status, .cmd, .config, .arg0, .arg1]) (s : State)
    (v : Word) : s.writeReg r v = s := by
  cases r with
  | ctrl | status | cmd | config | arg0 | arg1 => simp at h
  | _ => rfl

/-- Settles O18: the value is the number the register's fields make, and a write of a read-only register is no write. -/
theorem registersReadAndReadOnlyWritesAreIgnored : Obligations.RegistersReadAndReadOnlyWritesAreIgnored := by
  intro s r hp
  refine ⟨⟨s.readReg r, readReg_toNat s r, rfl, access_readAt (by simp [hp])⟩, fun hr v => ?_⟩
  rw [access_writeAt v (by simp [hp]), writeReg_of_readOnly hr]

/-- Settles O17: ID reads a constant and is read-only. -/
theorem idRegisterIsConstant : Obligations.IdRegisterIsConstant := fun _ =>
  ⟨rfl, fun v hp => access_writeAt (r := .id) v (by simp [hp])⟩

/-- Settles O15: the read's bits are those of the number STATUS reads. -/
theorem statusReadsAndClears : Obligations.StatusReadsAndClears := by
  intro s v
  refine ⟨access_writeAt (r := .status) v (by simp), s.statusWord, access_readAt (r := .status) (by simp), ?_⟩
  simp only [State.statusWord]
  generalize s.pending = p, s.done = d, s.err = e, s.ovr = o
  revert p d e o
  decide

/-! ### CONFIG, ARG0 and ARG1 -/

theorem configWord_writeConfig (s : State) (v : Word) : (s.writeConfig v).configWord = v &&& 0xF#32 := by
  apply BitVec.eq_of_getLsbD_eq
  intro i hi
  rw [State.configWord, State.writeConfig_ecc, State.writeConfig_version, BitVec.getLsbD_and]
  have hF : (0xF#32).getLsbD i = decide (i < 4) := by
    revert i
    decide
  simp only [BitVec.getLsbD_setWidth, BitVec.getLsbD_append, BitVec.getLsbD_extractLsb', hF, hi]
  by_cases h2 : i < 2
  · simp [h2, show i < 4 by omega]
  · by_cases h4 : i < 4
    · simp [h2, h4, show i - 2 < 2 by omega, show 2 + (i - 2) = i by omega]
    · simp [h2, h4, show ¬i - 2 < 2 by omega]

/-- Settles O16, each write by the rule of its register. -/
theorem configAndOperandRegisters : Obligations.ConfigAndOperandRegisters := by
  intro s v hp
  refine ⟨⟨s.writeConfig v, access_writeAt (r := .config) v (by simp [hp]), rfl, configWord_writeConfig s v⟩, ?_, ?_⟩
  · exact access_writeAt (r := .arg0) v (by simp [hp])
  · exact access_writeAt (r := .arg1) v (by simp [hp])

/-! ### CMD -/

/-- A CMD write while a command is pending is dropped (R306). -/
theorem writeCmd_of_pending {s : State} (hp : s.pending = true) (w : Word) : s.writeCmd w = { s with ovr := true } := by
  simp [State.writeCmd, hp]

/-- A CMD write with nothing pending is accepted (R301); the wait, the schedule and the draw counter are the model's
(log 4). -/
theorem writeCmd_of_idle {s : State} (hp : s.pending = false) (w : Word) :
    ∃ d l n, s.writeCmd w =
      { s with cmdl := w, pending := true, done := false, err := false, delay := d, latencies := l, draws := n } := by
  obtain ⟨d, l, n, h⟩ := State.setWait_cases (s.latch w) w
  refine ⟨d, l, n, ?_⟩
  rw [State.writeCmd, hp, if_neg (by simp), h]
  rfl

/-- Settles O14: a CMD write is never a hazard, and is dropped or accepted by the pending flag. -/
theorem cmdWriteIsAcceptedOrDropped : Obligations.CmdWriteIsAcceptedOrDropped := by
  intro s w
  have hwrite : s.access (writeAt .cmd w) = .next (s.writeCmd w) := access_writeAt (r := .cmd) w (by simp)
  refine ⟨fun hp => ?_, fun hp => ?_, fun hp => access_readAt (r := .cmd) (by simp [hp])⟩
  · obtain ⟨d, l, n, h⟩ := writeCmd_of_idle hp w
    exact ⟨d, l, n, by rw [hwrite, h]⟩
  · rw [hwrite, writeCmd_of_pending hp]

/-! ### CTRL -/

theorem writeCtrl_of_srst {s : State} {v : Word} (hv : v.getLsbD 1 = true) : s.writeCtrl v = s.softReset := by
  simp only [State.writeCtrl, hv, if_true]

theorem writeCtrl_of_not_srst {s : State} {v : Word} (hv : v.getLsbD 1 = false) :
    s.writeCtrl v = { s with irqen := v.getLsbD 0 } := by
  simp only [State.writeCtrl, hv, Bool.false_eq_true, if_false]

/-- A state whose bytes are those after power-on reset holds no byte and no cell (R48, R341). -/
theorem byteAt_eq_none_of_reset {s : State} (hmem : s.mem = State.reset.mem) (hmx : s.matrix = State.reset.matrix) :
    (∀ o, 0x100 ≤ o → o < 0x2C0 → s.byteAt o = none) ∧ ∀ k, k < 625 → s.byteAt (0x400 + k) = none := by
  refine ⟨fun o hlo hhi => ?_, fun k hk => ?_⟩
  · rw [State.byteAt_buffer s (by simp [isBufferOffset, hlo, hhi]), hmem]
    rfl
  · rw [State.byteAt_matrix s hk]
    simp [hmx, State.reset]

/-- Every register but ID reads 0 after a soft reset (R340, R342). -/
theorem readReg_softReset (s : State) (r : RegName) :
    s.softReset.readReg r = if r = .id then 0x51520007#32 else 0#32 := by
  apply BitVec.eq_of_toNat_eq
  rw [readReg_toNat]
  cases r with
  | scores m => simp [registerValue, State.reset]
  | pen k => simp [registerValue, State.reset]
  | _ => rfl

/-- Settles O11: a CTRL write is never a hazard, and is a soft reset or a write of IRQEN by bit 1. -/
theorem ctrlWriteResetsOrEnables : Obligations.CtrlWriteResetsOrEnables := by
  intro s v
  have hwrite : s.access (writeAt .ctrl v) = .next (s.writeCtrl v) := access_writeAt (r := .ctrl) v (by simp)
  refine ⟨fun hv => ?_, fun hv => by rw [hwrite, writeCtrl_of_not_srst hv]⟩
  rw [writeCtrl_of_srst hv] at hwrite
  refine ⟨s.softReset, hwrite, readReg_softReset s, rfl, rfl, rfl, rfl, rfl, fun hp => ?_, fun hp => ?_⟩
  · exact byteAt_eq_none_of_reset (by simp [hp]) (by simp [hp])
  · simp [hp]

end Sys2Proof.Proofs
end

section
/-! Commands as rows of stages (R271): what every stage of a command keeps, the whole command keeps. The registers and
bytes a command can change, by the obligations on frames, and irq. -/

namespace Sys2Proof.Proofs

open Sys2Proof Sys2Proof.Machine Sys2Proof.Spec

/-! ### The stages of a command -/

/-- The bodies a command runs, in order (R271, R272). -/
def stages : Instr → List (State → Body)
  | .nop => []
  | .gfMul => [bodyGfMul]
  | .gfExp => [bodyGfExp]
  | .gfLog => [bodyGfLog]
  | .rsGen x => [bodyRsGen x]
  | .rsEnc x => [bodyRsEnc x]
  | .bsBuild => [bodyBsBuild]
  | .mxBuild => [bodyMxBuild]
  | .mxPlace => [bodyMxPlace]
  | .maskScore m => [bodyMaskScore m]
  | .maskSelect => [bodyMaskSelect]
  | .tblCap => [bodyTblCap]
  | .tblGeom => [bodyTblGeom]
  | .tblFmt m => [bodyTblFmt m]
  | .encode => [bodyBsBuild, bodyRsEnc false, bodyMxBuild, bodyMxPlace, bodyMaskSelect]

theorem exec_eq_runStages (i : Instr) (s : State) : exec i s = runStages (stages i) s := by
  cases i <;> rfl

/-- What holds before a row of stages and is kept by each of them holds at its end: `P` between the stages, `Q` of the
state the command ends in, by `complete()` or by `raise` (R302, R303). -/
theorem runStages_induction {P Q : State → Prop} {bs : List (State → Body)} {s t : State} (hs : P s)
    (hstage : ∀ b ∈ bs, ∀ u v, P u → b u = .ok v → P v) (hcomplete : ∀ u, P u → Q u.complete)
    (hraise : ∀ u e st, P u → Q (u.raise e st)) (h : runStages bs s = .next t) : Q t := by
  induction bs generalizing s with
  | nil =>
    cases h
    exact hcomplete s hs
  | cons b bs ih =>
    obtain ⟨u, hu, hrest⟩ | ⟨e, st, -, rfl⟩ := runStages_cons_next h
    · exact ih (hstage b (by simp) s u hs hu) (fun b' hb' => hstage b' (List.mem_cons_of_mem b hb')) hrest
    · exact hraise s e st hs

/-- A value that no stage changes, nor the end of a command, is the same after the row. -/
theorem runStages_keeps {α : Type} (f : State → α) {bs : List (State → Body)} {s t : State}
    (hstage : ∀ b ∈ bs, ∀ u v, b u = .ok v → f v = f u) (hcomplete : ∀ u : State, f u.complete = f u)
    (hraise : ∀ (u : State) e st, f (u.raise e st) = f u) (h : runStages bs s = .next t) : f t = f s :=
  runStages_induction (P := fun u => f u = f s) (Q := fun u => f u = f s) rfl
    (fun b hb u v hu hv => (hstage b hb u v hv).trans hu) (fun u hu => (hcomplete u).trans hu)
    (fun u e st hu => (hraise u e st).trans hu) h

/-! ### The registers a command can change -/

/-- The registers that `i` must leave as they are, when it leads from `s` to `t` (R21). -/
structure KeepsRegisters (i : Instr) (s t : State) : Prop where
  hostSide : t.irqen = s.irqen ∧ t.ovr = s.ovr ∧ t.cmdl = s.cmdl ∧ t.version = s.version ∧ t.ecc = s.ecc ∧
    t.arg0 = s.arg0 ∧ t.arg1 = s.arg1 ∧ t.host = s.host ∧ t.draws = s.draws ∧ t.delay = s.delay ∧
    t.latencies = s.latencies
  result : writesResult i = false → t.result = s.result
  dataCounts : i ∉ [.bsBuild, .encode] → t.dlen = s.dlen ∧ t.bitcnt = s.bitcnt
  eclen : i ∉ [.rsEnc false, .rsEnc true, .encode] → t.eclen = s.eclen
  mx : i ∉ [.mxBuild, .mxPlace, .maskSelect, .encode] → t.mx = s.mx
  selection : i ∉ [.maskSelect, .encode] → t.mask = s.mask ∧ t.scores = s.scores
  penalty : (∀ m, i ≠ .maskScore m) → i ∉ [.maskSelect, .encode] →
    t.score = s.score ∧ t.pen1 = s.pen1 ∧ t.pen2 = s.pen2 ∧ t.pen3 = s.pen3 ∧ t.pen4 = s.pen4

theorem KeepsRegisters.refl (i : Instr) (s : State) : KeepsRegisters i s s := by
  constructor <;> simp

theorem KeepsRegisters.trans {i : Instr} {s t u : State} (h : KeepsRegisters i s t) (h' : KeepsRegisters i t u) :
    KeepsRegisters i s u where
  hostSide := by simp only [h'.hostSide, h.hostSide, and_self]
  result hi := (h'.result hi).trans (h.result hi)
  dataCounts hi := by simp only [h'.dataCounts hi, h.dataCounts hi, and_self]
  eclen hi := (h'.eclen hi).trans (h.eclen hi)
  mx hi := (h'.mx hi).trans (h.mx hi)
  selection hi := by simp only [h'.selection hi, h.selection hi, and_self]
  penalty hm hi := by simp only [h'.penalty hm hi, h.penalty hm hi, and_self]

/-- The stages of ENCODE write no RESULT, and each other register is written by one of them. -/
theorem KeepsRegisters.encode {j : Instr} {s t : State} (hj : writesResult j = false) (h : KeepsRegisters j s t) :
    KeepsRegisters .encode s t where
  hostSide := h.hostSide
  result _ := h.result hj
  dataCounts := by simp
  eclen := by simp
  mx := by simp
  selection := by simp
  penalty := by simp

theorem bodyBsBuild_keepsRegisters {u v : State} (h : bodyBsBuild u = .ok v) : KeepsRegisters .bsBuild u v := by
  obtain ⟨cap, p, -, -, -, rfl⟩ := bodyBsBuild_ok h
  constructor <;> simp

theorem bodyRsEnc_keepsRegisters {x : Bool} {u v : State} (h : bodyRsEnc x u = .ok v) :
    KeepsRegisters (.rsEnc x) u v := by
  obtain ⟨nd, n, d, -, -, rfl⟩ := bodyRsEnc_ok h
  constructor <;> cases x <;> simp

theorem bodyMxBuild_keepsRegisters {u v : State} (h : bodyMxBuild u = .ok v) : KeepsRegisters .mxBuild u v := by
  obtain ⟨ver, -, rfl⟩ := bodyMxBuild_ok h
  constructor <;> simp

theorem bodyMxPlace_keepsRegisters {u v : State} (h : bodyMxPlace u = .ok v) : KeepsRegisters .mxPlace u v := by
  obtain ⟨ver, mv, g, d, e, -, -, -, -, -, -, rfl⟩ := bodyMxPlace_ok h
  constructor <;> simp

theorem bodyMaskSelect_keepsRegisters {u v : State} (h : bodyMaskSelect u = .ok v) :
    KeepsRegisters .maskSelect u v := by
  obtain ⟨ver, mv, g, -, -, -, rfl⟩ := bodyMaskSelect_ok h
  constructor <;> simp [State.select]

/-- A command whose stage writes RESULT and no other register keeps what the others write. -/
theorem keepsRegisters_of_result {i : Instr} (hi : writesResult i = true) (u : State) (w : Word) :
    KeepsRegisters i u { u with result := w } := by
  constructor <;> simp [hi]

/-- The commands that write RESULT, but for RS_GEN, write nothing else in their stage. -/
theorem stage_ok_of_result {i : Instr} (hi : writesResult i = true) (hgen : ∀ x, i ≠ .rsGen x) {b : State → Body}
    (hb : b ∈ stages i) {u v : State} (h : b u = .ok v) : ∃ w, v = { u with result := w } := by
  cases i with
  | gfMul =>
    obtain rfl := List.mem_singleton.mp hb
    exact bodyGfMul_ok h
  | gfExp =>
    obtain rfl := List.mem_singleton.mp hb
    exact bodyGfExp_ok h
  | gfLog =>
    obtain rfl := List.mem_singleton.mp hb
    obtain ⟨p, -, rfl⟩ := bodyGfLog_ok h
    exact ⟨_, rfl⟩
  | tblCap =>
    obtain rfl := List.mem_singleton.mp hb
    exact bodyTblCap_ok h
  | tblGeom =>
    obtain rfl := List.mem_singleton.mp hb
    exact bodyTblGeom_ok h
  | tblFmt m =>
    obtain rfl := List.mem_singleton.mp hb
    exact bodyTblFmt_ok h
  | rsGen x => exact absurd rfl (hgen x)
  | nop | rsEnc | bsBuild | mxBuild | mxPlace | maskScore | maskSelect | encode => cases hi

/-- Every stage of a command keeps the registers that the command keeps. -/
theorem stage_keepsRegisters {i : Instr} {b : State → Body} (hb : b ∈ stages i) {u v : State} (h : b u = .ok v) :
    KeepsRegisters i u v := by
  cases i with
  | nop => simp [stages] at hb
  | gfMul | gfExp | gfLog | tblCap | tblGeom | tblFmt =>
    obtain ⟨w, rfl⟩ := stage_ok_of_result rfl (by simp) hb h
    exact keepsRegisters_of_result rfl u w
  | rsGen x =>
    obtain rfl := List.mem_singleton.mp hb
    obtain ⟨n, -, rfl⟩ := bodyRsGen_ok h
    constructor <;> simp [writesResult]
  | rsEnc x =>
    obtain rfl := List.mem_singleton.mp hb
    exact bodyRsEnc_keepsRegisters h
  | bsBuild =>
    obtain rfl := List.mem_singleton.mp hb
    exact bodyBsBuild_keepsRegisters h
  | mxBuild =>
    obtain rfl := List.mem_singleton.mp hb
    exact bodyMxBuild_keepsRegisters h
  | mxPlace =>
    obtain rfl := List.mem_singleton.mp hb
    exact bodyMxPlace_keepsRegisters h
  | maskScore m =>
    obtain rfl := List.mem_singleton.mp hb
    obtain ⟨mv, g, -, -, rfl⟩ := bodyMaskScore_ok h
    constructor <;> simp
  | maskSelect =>
    obtain rfl := List.mem_singleton.mp hb
    exact bodyMaskSelect_keepsRegisters h
  | encode =>
    simp only [stages, List.mem_cons, List.not_mem_nil, or_false] at hb
    obtain rfl | rfl | rfl | rfl | rfl := hb
    · exact (bodyBsBuild_keepsRegisters h).encode rfl
    · exact (bodyRsEnc_keepsRegisters h).encode rfl
    · exact (bodyMxBuild_keepsRegisters h).encode rfl
    · exact (bodyMxPlace_keepsRegisters h).encode rfl
    · exact (bodyMaskSelect_keepsRegisters h).encode rfl

theorem complete_keepsRegisters (i : Instr) (u : State) : KeepsRegisters i u u.complete := by
  constructor <;> simp

theorem raise_keepsRegisters (i : Instr) (u : State) (e : ErrCode) (st : Byte) :
    KeepsRegisters i u (u.raise e st) := by
  constructor <;> simp

theorem exec_keepsRegisters {i : Instr} {s t : State} (h : exec i s = .next t) : KeepsRegisters i s t := by
  rw [exec_eq_runStages] at h
  exact runStages_induction (P := KeepsRegisters i s) (.refl i s)
    (fun b hb u v hu hv => hu.trans (stage_keepsRegisters hb hv)) (fun u hu => hu.trans (complete_keepsRegisters i u))
    (fun u e st hu => hu.trans (raise_keepsRegisters i u e st)) h

/-- Settles O59: what each stage of a command keeps, the command keeps. -/
theorem commandsWriteOnlyTheirRegisters : Obligations.CommandsWriteOnlyTheirRegisters := by
  intro i s t h
  obtain ⟨hhost, hresult, hdata, heclen, hmx, hselection, hpenalty⟩ := exec_keepsRegisters h
  exact ⟨hhost, hresult, hdata, heclen, hmx, hselection, hpenalty⟩

/-! ### irq -/

theorem irq_eq_irqen_of_done {s : State} (h : s.done = true) : s.irq = s.irqen := by
  rw [State.irq, h, Bool.and_true]

theorem irq_eq_false_of_not_done {s : State} (h : s.done = false) : s.irq = false := by
  rw [State.irq, h, Bool.and_false]

/-- Every command that ends sets DONE (R302, R303). -/
theorem exec_done {i : Instr} {s t : State} (h : exec i s = .next t) : t.done = true := by
  rw [exec_eq_runStages] at h
  exact (runStages_ends h).2

/-- Settles O19: a command's end sets DONE and keeps IRQEN; the two writes clear DONE. -/
theorem irqFollowsEnableAndDone : Obligations.IrqFollowsEnableAndDone := by
  intro s
  refine ⟨by rw [State.irq, Bool.and_eq_true], fun i t h => ?_, fun v t hv h => ?_, fun w t hp h => ?_⟩
  · rw [irq_eq_irqen_of_done (exec_done h), (exec_keepsRegisters h).hostSide.1]
  · rw [access_writeAt v (by simp)] at h
    cases h
    exact irq_eq_false_of_not_done (by simp [State.writeReg, hv])
  · obtain ⟨d, l, n, hw⟩ := writeCmd_of_idle hp w
    rw [access_writeAt w (by simp), State.writeReg, hw] at h
    cases h
    exact irq_eq_false_of_not_done rfl

/-! ### What the commands write in a row -/

theorem mulLinear_length (g : List Byte) (a : Byte) : (mulLinear g a).length = g.length + 1 := by
  simp [mulLinear]

/-- g_n has n + 1 coefficients (R141). -/
theorem genpoly_length (n : Nat) : (genpoly n).length = n + 1 := by
  induction n with
  | zero => rfl
  | succ n ih => rw [genpoly, mulLinear_length, ih]

/-- One division step keeps the remainder's length when the generator's tail has it. -/
theorem divStep_length {gt rem : List Byte} (d : Byte) (h : rem.length = gt.length) :
    (divStep gt rem d).length = gt.length := by
  cases rem with
  | nil => exact h
  | cons r rs =>
    have hlen : rs.length + 1 = gt.length := h
    simp [divStep, hlen]

/-- The remainder has n coefficients (R142). -/
theorem rsrem_length (d : List Byte) (n : Nat) : (rsrem d n).length = n := by
  have hgt : (genpoly n).tail.length = n := by rw [List.length_tail, genpoly_length, Nat.add_sub_cancel]
  have hfold : ∀ (d rem : List Byte), rem.length = (genpoly n).tail.length →
      (d.foldl (divStep (genpoly n).tail) rem).length = (genpoly n).tail.length := by
    intro d
    induction d with
    | nil => exact fun _ h => h
    | cons x xs ih => exact fun rem h => ih _ (divStep_length x h)
  rw [rsrem, hfold d _ (by rw [List.length_replicate, hgt]), hgt]

theorem bitsOf_length (vs : List Byte) : (bitsOf vs).length = 8 * vs.length := by
  induction vs with
  | nil => rfl
  | cons v vs ih =>
    rw [bitsOf] at ih
    rw [bitsOf, List.flatMap_cons, List.length_append, ih, List.length_cons, show (bits8 v).length = 8 from rfl]
    omega

/-- Whole codewords are grouped, and nothing else (R162). -/
theorem groupBits_length (bits : List Bool) : (groupBits bits).length = bits.length / 8 := by
  fun_induction groupBits bits with
  | case1 b7 b6 b5 b4 b3 b2 b1 b0 rest ih =>
    simp only [List.length_cons, ih]
    omega
  | case2 bits hshort =>
    have hlt : bits.length < 8 := by
      match bits, hshort with
      | [], _ | [_], _ | [_, _], _ | [_, _, _], _ | [_, _, _, _], _ | [_, _, _, _, _], _ | [_, _, _, _, _, _], _ |
        [_, _, _, _, _, _, _], _ => simp
      | b7 :: b6 :: b5 :: b4 :: b3 :: b2 :: b1 :: b0 :: rest, hshort => exact (hshort _ _ _ _ _ _ _ _ _ rfl).elim
    simp only [List.length_nil]
    omega

theorem padCodewords_length (first : Bool) (n : Nat) : (padCodewords first n).length = n := by
  induction n generalizing first with
  | zero => rfl
  | succ n ih => rw [padCodewords, List.length_cons, ih]

theorem headerAndPayload_length (p : List Byte) : (headerAndPayload p).length = 12 + 8 * p.length := by
  simp only [headerAndPayload, List.length_append, bitsOf_length, bits8, List.length_cons, List.length_nil]

/-- A payload that fits fills exactly its data codewords (R162). -/
theorem bsbuild_length {p : List Byte} {d : Nat} (h : 12 + 8 * p.length ≤ 8 * d) : (bsbuild p d).length = d := by
  simp only [bsbuild, List.length_append, groupBits_length, padCodewords_length, headerAndPayload_length, terminator,
    boundaryPad, List.length_replicate]
  omega

/-- The bytes read from a buffer are as many as were asked for. -/
theorem readBuffer_length {s : State} {b : BufName} {n : Nat} {vs : List Byte} (h : s.readBuffer b n = some vs) :
    vs.length = n :=
  (Memory.readAll_eq_some.mp h).1

/-- BS_BUILD's stage writes D bytes at the front of DATA, and D to DLEN (R163). -/
theorem bodyBsBuild_data {u v : State} (h : bodyBsBuild u = .ok v) :
    ∃ vs, vs.length ≤ 34 ∧ v.dlen.toNat = vs.length ∧ v.mem = u.mem.setAll BufName.data.windowBase vs ∧
      v.matrix = u.matrix := by
  obtain ⟨cap, p, hcap, hfit, hp, rfl⟩ := bodyBsBuild_ok h
  obtain ⟨ver, -, rfl⟩ := State.checkedCapacity_eq_ok.mp hcap
  obtain ⟨-, hle, -, -⟩ := capacity_bounds ver u.level
  have hlen := bsbuild_length (p := p) (by rw [readBuffer_length hp]; exact hfit)
  refine ⟨_, by rw [hlen]; exact hle, ?_, rfl, rfl⟩
  rw [hlen, BitVec.toNat_ofNat]
  omega

/-- RS_ENC's stage writes its count of bytes at the front of EC, and the count to ECLEN (R144). -/
theorem bodyRsEnc_ec {x : Bool} {u v : State} (h : bodyRsEnc x u = .ok v) :
    ∃ vs, vs.length ≤ 63 ∧ v.eclen.toNat = vs.length ∧ v.mem = u.mem.setAll BufName.ec.windowBase vs ∧
      v.matrix = u.matrix := by
  obtain ⟨nd, n, d, hn, -, rfl⟩ := bodyRsEnc_ok h
  obtain ⟨-, hle⟩ := State.encCounts_le hn
  refine ⟨_, by rw [rsrem_length]; exact hle, ?_, rfl, rfl⟩
  rw [rsrem_length, BitVec.toNat_ofNat]
  omega

/-- RS_GEN's stage writes the generator's coefficients at the front of GEN, and their number to RESULT (R143). -/
theorem bodyRsGen_gen {x : Bool} {u v : State} (h : bodyRsGen x u = .ok v) :
    ∃ vs, vs.length ≤ 64 ∧ v.result.toNat = vs.length ∧ v.mem = u.mem.setAll BufName.gen.windowBase vs ∧
      v.matrix = u.matrix := by
  obtain ⟨n, hn, rfl⟩ := bodyRsGen_ok h
  have hle := State.genCount_le hn
  refine ⟨_, by rw [genpoly_length]; omega, ?_, rfl, rfl⟩
  rw [genpoly_length, BitVec.toNat_ofNat]
  omega

end Sys2Proof.Proofs
end

section
/-! The bytes a command can change (R41 to R45, R353): each stage by the window it writes, then the whole command. -/

namespace Sys2Proof.Proofs

open Sys2Proof Sys2Proof.Machine Sys2Proof.Spec

/-! ### Bytes after a write -/

/-- A row of buffer bytes changes no byte outside it. -/
theorem byteAt_of_setAll {s t : State} {base a : Nat} {vs : List Byte} (hmem : t.mem = s.mem.setAll base vs)
    (hmx : t.matrix = s.matrix) (ha : ¬(base ≤ a ∧ a < base + vs.length)) : t.byteAt a = s.byteAt a := by
  simp only [State.byteAt, hmem, hmx, Memory.get?_setAll, if_neg ha]

/-- Equal buffers and cells show equal bytes. -/
theorem byteAt_congr {s t : State} (hmem : t.mem = s.mem) (hmx : t.matrix = s.matrix) (a : Nat) :
    t.byteAt a = s.byteAt a := by
  simp only [State.byteAt, hmem, hmx]

/-- The cells show only in MATRIX. -/
theorem byteAt_of_not_matrix {s t : State} {a : Nat} (hmem : t.mem = s.mem) (ha : regionOf a ≠ .window .matrix) :
    t.byteAt a = s.byteAt a := by
  simp only [State.byteAt, hmem]
  split
  · exact absurd ‹_› ha
  · rfl
  · rfl
  · rfl

/-! ### Bytes after a stage -/

/-- The windows a command's rule writes (R41 to R45). -/
def writesWindow : Instr → BufName → Bool
  | .bsBuild, .data => true
  | .rsEnc _, .ec => true
  | .rsGen _, .gen => true
  | .mxBuild, .matrix => true
  | .mxPlace, .matrix => true
  | .maskSelect, .matrix => true
  | .encode, .data => true
  | .encode, .ec => true
  | .encode, .matrix => true
  | _, _ => false

theorem writesWindow_text (i : Instr) : writesWindow i .text = false := by cases i <;> rfl

theorem writesWindow_data {i : Instr} (h : i ∉ [.bsBuild, .encode]) : writesWindow i .data = false := by
  cases i <;> simp_all [writesWindow]

theorem writesWindow_ec {i : Instr} (h : i ∉ [.rsEnc false, .rsEnc true, .encode]) : writesWindow i .ec = false := by
  cases i with
  | rsEnc x => cases x <;> simp at h
  | encode => simp at h
  | _ => rfl

theorem writesWindow_gen {i : Instr} (h : i ∉ [.rsGen false, .rsGen true]) : writesWindow i .gen = false := by
  cases i with
  | rsGen x => cases x <;> simp at h
  | _ => rfl

theorem writesWindow_matrix {i : Instr} (h : i ∉ [.mxBuild, .mxPlace, .maskSelect, .encode]) :
    writesWindow i .matrix = false := by
  cases i <;> simp_all [writesWindow]

/-- BS_BUILD's stage changes no byte but those of DATA below DLEN. -/
theorem bodyBsBuild_byteAt {u v : State} {a : Nat} (h : bodyBsBuild u = .ok v)
    (ha : ¬(0x200 ≤ a ∧ a < 0x200 + v.dlen.toNat)) : v.byteAt a = u.byteAt a := by
  obtain ⟨vs, -, hlen, hmem, hmx⟩ := bodyBsBuild_data h
  exact byteAt_of_setAll hmem hmx (hlen ▸ ha)

/-- RS_ENC's stage changes no byte but those of EC below ECLEN. -/
theorem bodyRsEnc_byteAt {x : Bool} {u v : State} {a : Nat} (h : bodyRsEnc x u = .ok v)
    (ha : ¬(0x240 ≤ a ∧ a < 0x240 + v.eclen.toNat)) : v.byteAt a = u.byteAt a := by
  obtain ⟨vs, -, hlen, hmem, hmx⟩ := bodyRsEnc_ec h
  exact byteAt_of_setAll hmem hmx (hlen ▸ ha)

/-- RS_GEN's stage changes no byte but those of GEN below RESULT. -/
theorem bodyRsGen_byteAt {x : Bool} {u v : State} {a : Nat} (h : bodyRsGen x u = .ok v)
    (ha : ¬(0x280 ≤ a ∧ a < 0x280 + v.result.toNat)) : v.byteAt a = u.byteAt a := by
  obtain ⟨vs, -, hlen, hmem, hmx⟩ := bodyRsGen_gen h
  exact byteAt_of_setAll hmem hmx (hlen ▸ ha)

theorem bodyBsBuild_dlen_le {u v : State} (h : bodyBsBuild u = .ok v) : v.dlen.toNat ≤ 34 := by
  obtain ⟨vs, hle, hlen, -⟩ := bodyBsBuild_data h
  exact hlen ▸ hle

theorem bodyRsEnc_eclen_le {x : Bool} {u v : State} (h : bodyRsEnc x u = .ok v) : v.eclen.toNat ≤ 63 := by
  obtain ⟨vs, hle, hlen, -⟩ := bodyRsEnc_ec h
  exact hlen ▸ hle

theorem bodyRsGen_result_le {x : Bool} {u v : State} (h : bodyRsGen x u = .ok v) : v.result.toNat ≤ 64 := by
  obtain ⟨vs, hle, hlen, -⟩ := bodyRsGen_gen h
  exact hlen ▸ hle

theorem bodyMxBuild_mem {u v : State} (h : bodyMxBuild u = .ok v) : v.mem = u.mem := by
  obtain ⟨ver, -, rfl⟩ := bodyMxBuild_ok h
  rfl

theorem bodyMxPlace_mem {u v : State} (h : bodyMxPlace u = .ok v) : v.mem = u.mem := by
  obtain ⟨ver, mv, g, d, e, -, -, -, -, -, -, rfl⟩ := bodyMxPlace_ok h
  rfl

theorem bodyMaskSelect_mem {u v : State} (h : bodyMaskSelect u = .ok v) : v.mem = u.mem := by
  obtain ⟨ver, mv, g, -, -, -, rfl⟩ := bodyMaskSelect_ok h
  rfl

/-- A stage changes no byte outside the windows its command writes. -/
theorem stage_byteAt {i : Instr} {b : State → Body} (hb : b ∈ stages i) {u v : State} (h : b u = .ok v) {a : Nat}
    (hw : ∀ w, regionOf a = .window w → writesWindow i w = false) : v.byteAt a = u.byteAt a := by
  have outside : ∀ {w : BufName}, writesWindow i w = true → ∀ {n : Nat}, n ≤ w.windowSize →
      ¬(w.windowBase ≤ a ∧ a < w.windowBase + n) := fun {w} hiw n hn hin => by
    simp [hw w (regionOf_window.mpr ⟨hin.1, by omega⟩)] at hiw
  have noMatrix : writesWindow i .matrix = true → regionOf a ≠ .window .matrix := fun hi ha => by simp [hw _ ha] at hi
  cases i with
  | nop => simp [stages] at hb
  | gfMul | gfExp | gfLog | tblCap | tblGeom | tblFmt =>
    obtain ⟨w, rfl⟩ := stage_ok_of_result rfl (by simp) hb h
    exact byteAt_congr rfl rfl a
  | rsGen x =>
    obtain rfl := List.mem_singleton.mp hb
    exact bodyRsGen_byteAt h (outside (w := .gen) rfl (bodyRsGen_result_le h))
  | rsEnc x =>
    obtain rfl := List.mem_singleton.mp hb
    exact bodyRsEnc_byteAt h (outside (w := .ec) rfl ((bodyRsEnc_eclen_le h).trans (by decide)))
  | bsBuild =>
    obtain rfl := List.mem_singleton.mp hb
    exact bodyBsBuild_byteAt h (outside (w := .data) rfl ((bodyBsBuild_dlen_le h).trans (by decide)))
  | mxBuild =>
    obtain rfl := List.mem_singleton.mp hb
    exact byteAt_of_not_matrix (bodyMxBuild_mem h) (noMatrix rfl)
  | mxPlace =>
    obtain rfl := List.mem_singleton.mp hb
    exact byteAt_of_not_matrix (bodyMxPlace_mem h) (noMatrix rfl)
  | maskScore m =>
    obtain rfl := List.mem_singleton.mp hb
    obtain ⟨mv, g, -, -, rfl⟩ := bodyMaskScore_ok h
    exact byteAt_congr rfl rfl a
  | maskSelect =>
    obtain rfl := List.mem_singleton.mp hb
    exact byteAt_of_not_matrix (bodyMaskSelect_mem h) (noMatrix rfl)
  | encode =>
    simp only [stages, List.mem_cons, List.not_mem_nil, or_false] at hb
    obtain rfl | rfl | rfl | rfl | rfl := hb
    · exact bodyBsBuild_byteAt h (outside (w := .data) rfl ((bodyBsBuild_dlen_le h).trans (by decide)))
    · exact bodyRsEnc_byteAt h (outside (w := .ec) rfl ((bodyRsEnc_eclen_le h).trans (by decide)))
    · exact byteAt_of_not_matrix (bodyMxBuild_mem h) (noMatrix rfl)
    · exact byteAt_of_not_matrix (bodyMxPlace_mem h) (noMatrix rfl)
    · exact byteAt_of_not_matrix (bodyMaskSelect_mem h) (noMatrix rfl)

/-! ### Bytes after a command -/

/-- A command changes no byte outside the windows it writes. -/
theorem exec_byteAt {i : Instr} {s t : State} (h : exec i s = .next t) {a : Nat}
    (hw : ∀ w, regionOf a = .window w → writesWindow i w = false) : t.byteAt a = s.byteAt a := by
  rw [exec_eq_runStages] at h
  exact runStages_keeps (fun u => u.byteAt a) (fun b hb u v hv => stage_byteAt hb hv hw)
    (fun u => byteAt_congr rfl rfl a) (fun u e st => byteAt_congr rfl rfl a) h

/-- Inside one window, a command that does not write it changes no byte. -/
theorem exec_byteAt_of_window {i : Instr} {s t : State} (h : exec i s = .next t) {a : Nat} {w : BufName}
    (ha : regionOf a = .window w) (hw : writesWindow i w = false) : t.byteAt a = s.byteAt a :=
  exec_byteAt h fun w' ha' => by rw [ha] at ha'; cases ha'; exact hw

/-- A row of stages whose first writes a byte only below a count, and whose others keep the byte and the count, keeps
the bytes from the count upward. -/
theorem runStages_head_byteAt {b : State → Body} {bs : List (State → Body)} {s t : State} {a base : Nat}
    (count : State → Nat) (hhead : ∀ u v, b u = .ok v → base + count v ≤ a → v.byteAt a = u.byteAt a)
    (hrest : ∀ b' ∈ bs, ∀ u v, b' u = .ok v → v.byteAt a = u.byteAt a ∧ count v = count u)
    (hcomplete : ∀ u : State, count u.complete = count u) (hraise : ∀ (u : State) e st, count (u.raise e st) = count u)
    (ha : base + count t ≤ a) (h : runStages (b :: bs) s = .next t) : t.byteAt a = s.byteAt a := by
  obtain ⟨u, hu, hbs⟩ | ⟨e, st, -, rfl⟩ := runStages_cons_next h
  · have hcount : count t = count u := runStages_keeps count (fun b' hb' u v hv => (hrest b' hb' u v hv).2)
      hcomplete hraise hbs
    have hbyte : t.byteAt a = u.byteAt a := runStages_keeps (fun u => u.byteAt a)
      (fun b' hb' u v hv => (hrest b' hb' u v hv).1) (fun _ => byteAt_congr rfl rfl a)
      (fun _ _ _ => byteAt_congr rfl rfl a) hbs
    exact hbyte.trans (hhead s u hu (hcount ▸ ha))
  · exact byteAt_congr rfl rfl a

/-- ENCODE's stages after BS_BUILD keep the bytes of DATA and DLEN. -/
theorem encodeTail_keeps_data {a : Nat} (ha : regionOf a = .window .data) :
    ∀ b ∈ [bodyRsEnc false, bodyMxBuild, bodyMxPlace, bodyMaskSelect], ∀ u v, b u = .ok v →
      v.byteAt a = u.byteAt a ∧ v.dlen.toNat = u.dlen.toNat := by
  have keeps : ∀ {i : Instr} {b : State → Body}, b ∈ stages i → i ∉ [.bsBuild, .encode] → ∀ u v, b u = .ok v →
      v.byteAt a = u.byteAt a ∧ v.dlen.toNat = u.dlen.toNat := fun {i b} hb hi u v hv =>
    ⟨stage_byteAt hb hv fun w hw => by rw [ha] at hw; cases hw; exact writesWindow_data hi,
      congrArg BitVec.toNat ((stage_keepsRegisters hb hv).dataCounts hi).1⟩
  simp only [List.forall_mem_cons, List.not_mem_nil, false_imp_iff, implies_true, and_true]
  exact ⟨keeps (i := .rsEnc false) (by simp [stages]) (by simp), keeps (i := .mxBuild) (by simp [stages]) (by simp),
    keeps (i := .mxPlace) (by simp [stages]) (by simp), keeps (i := .maskSelect) (by simp [stages]) (by simp)⟩

/-- ENCODE's stages after RS_ENC keep the bytes of EC and ECLEN. -/
theorem encodeTail_keeps_ec {a : Nat} (ha : regionOf a = .window .ec) :
    ∀ b ∈ [bodyMxBuild, bodyMxPlace, bodyMaskSelect], ∀ u v, b u = .ok v →
      v.byteAt a = u.byteAt a ∧ v.eclen.toNat = u.eclen.toNat := by
  have keeps : ∀ {i : Instr} {b : State → Body}, b ∈ stages i → i ∉ [.rsEnc false, .rsEnc true, .encode] → ∀ u v,
      b u = .ok v → v.byteAt a = u.byteAt a ∧ v.eclen.toNat = u.eclen.toNat := fun {i b} hb hi u v hv =>
    ⟨stage_byteAt hb hv fun w hw => by rw [ha] at hw; cases hw; exact writesWindow_ec hi,
      congrArg BitVec.toNat ((stage_keepsRegisters hb hv).eclen hi)⟩
  simp only [List.forall_mem_cons, List.not_mem_nil, false_imp_iff, implies_true, and_true]
  exact ⟨keeps (i := .mxBuild) (by simp [stages]) (by simp), keeps (i := .mxPlace) (by simp [stages]) (by simp),
    keeps (i := .maskSelect) (by simp [stages]) (by simp)⟩

theorem bodyBsBuild_past_dlen {a : Nat} (u v : State) (h : bodyBsBuild u = .ok v) (ha : 0x200 + v.dlen.toNat ≤ a) :
    v.byteAt a = u.byteAt a :=
  bodyBsBuild_byteAt h (by omega)

theorem bodyRsEnc_past_eclen {x : Bool} {a : Nat} (u v : State) (h : bodyRsEnc x u = .ok v)
    (ha : 0x240 + v.eclen.toNat ≤ a) : v.byteAt a = u.byteAt a :=
  bodyRsEnc_byteAt h (by omega)

theorem bodyRsGen_past_result {x : Bool} {a : Nat} (u v : State) (h : bodyRsGen x u = .ok v)
    (ha : 0x280 + v.result.toNat ≤ a) : v.byteAt a = u.byteAt a :=
  bodyRsGen_byteAt h (by omega)

/-- The bytes of DATA from DLEN upward stay (R353). -/
theorem exec_data_past_dlen {i : Instr} {s t : State} {a : Nat} (h : exec i s = .next t) (hw : regionOf a = .window .data)
    (ha : 0x200 + t.dlen.toNat ≤ a) : t.byteAt a = s.byteAt a := by
  by_cases hi : i ∈ [.bsBuild, .encode]
  · simp only [List.mem_cons, List.not_mem_nil, or_false] at hi
    obtain rfl | rfl := hi
    · exact runStages_head_byteAt (fun u => u.dlen.toNat) bodyBsBuild_past_dlen (by simp) (fun _ => rfl)
        (fun _ _ _ => rfl) ha h
    · exact runStages_head_byteAt (fun u => u.dlen.toNat) bodyBsBuild_past_dlen (encodeTail_keeps_data hw)
        (fun _ => rfl) (fun _ _ _ => rfl) ha h
  · exact exec_byteAt_of_window h hw (writesWindow_data hi)

/-- The bytes of EC from ECLEN upward stay (R353). -/
theorem exec_ec_past_eclen {i : Instr} {s t : State} {a : Nat} (h : exec i s = .next t) (hw : regionOf a = .window .ec)
    (ha : 0x240 + t.eclen.toNat ≤ a) : t.byteAt a = s.byteAt a := by
  have single : ∀ x, exec (.rsEnc x) s = .next t → t.byteAt a = s.byteAt a := fun x h =>
    runStages_head_byteAt (fun u => u.eclen.toNat) bodyRsEnc_past_eclen (by simp) (fun _ => rfl) (fun _ _ _ => rfl) ha h
  by_cases hi : i ∈ [.rsEnc false, .rsEnc true, .encode]
  · simp only [List.mem_cons, List.not_mem_nil, or_false] at hi
    obtain rfl | rfl | rfl := hi
    · exact single false h
    · exact single true h
    · obtain ⟨u, hu, hrest⟩ | ⟨e, st, -, rfl⟩ := runStages_cons_next h
      · have hfirst : u.byteAt a = s.byteAt a := stage_byteAt (i := .bsBuild) (by simp [stages]) hu
          fun w hw' => by rw [hw] at hw'; cases hw'; rfl
        exact (runStages_head_byteAt (fun u => u.eclen.toNat) bodyRsEnc_past_eclen (encodeTail_keeps_ec hw)
          (fun _ => rfl) (fun _ _ _ => rfl) ha hrest).trans hfirst
      · exact byteAt_congr rfl rfl a
  · exact exec_byteAt_of_window h hw (writesWindow_ec hi)

/-- The bytes of GEN from RESULT upward stay after RS_GEN, and all of them after any other command (R353). -/
theorem exec_gen_past_result {i : Instr} {s t : State} {a : Nat} (h : exec i s = .next t) (hw : regionOf a = .window .gen)
    (ha : 0x280 + t.result.toNat ≤ a) : t.byteAt a = s.byteAt a := by
  have single : ∀ x, exec (.rsGen x) s = .next t → t.byteAt a = s.byteAt a := fun x h =>
    runStages_head_byteAt (fun u => u.result.toNat) bodyRsGen_past_result (by simp) (fun _ => rfl) (fun _ _ _ => rfl) ha h
  by_cases hi : i ∈ [.rsGen false, .rsGen true]
  · simp only [List.mem_cons, List.not_mem_nil, or_false] at hi
    obtain rfl | rfl := hi
    · exact single false h
    · exact single true h
  · exact exec_byteAt_of_window h hw (writesWindow_gen hi)

/-- Settles O60, window by window. -/
theorem commandsWriteOnlyTheirBuffers : Obligations.CommandsWriteOnlyTheirBuffers := by
  intro i s t a h
  refine ⟨fun ha => ?_, fun hlo hhi hor => ?_, fun hlo hhi hor => ?_, fun hlo hhi hor => ?_, fun ha hi => ?_⟩
  · refine exec_byteAt h fun w hw => ?_
    obtain ⟨hlo, -⟩ := regionOf_window.mp hw
    cases w with
    | text => exact writesWindow_text i
    | data | ec | gen | matrix => simp only [BufName.windowBase] at hlo; omega
  · have hw : regionOf a = .window .data := regionOf_window.mpr ⟨hlo, hhi⟩
    exact hor.elim (fun hi => exec_byteAt_of_window h hw (writesWindow_data hi)) (exec_data_past_dlen h hw)
  · have hw : regionOf a = .window .ec := regionOf_window.mpr ⟨hlo, hhi⟩
    exact hor.elim (fun hi => exec_byteAt_of_window h hw (writesWindow_ec hi)) (exec_ec_past_eclen h hw)
  · have hw : regionOf a = .window .gen := regionOf_window.mpr ⟨hlo, hhi⟩
    exact hor.elim (fun hi => exec_byteAt_of_window h hw (writesWindow_gen hi)) (exec_gen_past_result h hw)
  · refine exec_byteAt h fun w hw => ?_
    obtain ⟨-, hhi⟩ := regionOf_window.mp hw
    cases w with
    | matrix => exact writesWindow_matrix hi
    | text | data | ec | gen => simp only [BufName.windowBase, BufName.windowSize] at hhi; omega

end Sys2Proof.Proofs
end

section
/-! Placement on the built matrix: the order of R219 reaches every cell that MX_BUILD leaves Unset, once each; so the
matrix is as `State.CellsOk` says after MX_BUILD, MX_PLACE and MASK_SELECT (R217, R223, R248, R251). -/

namespace Sys2Proof.Proofs

open Sys2Proof Sys2Proof.Machine Sys2Proof.Spec

/-! ### The zig-zag path (R219) -/

/-- The model's column pairs are those of R219. -/
theorem rightColumns_size (v : Version) : rightColumns v.size (v.size - 1) = pairColumns v := by
  cases v <;> rfl

theorem mem_pairCells {n right r c : Nat} : (r, c) ∈ pairCells n right ↔ r < n ∧ (c = right ∨ c = right - 1) := by
  simp only [pairCells, List.mem_flatMap, List.mem_range, List.mem_cons, List.not_mem_nil, or_false, Prod.mk.injEq,
    ← and_or_left]
  constructor
  · rintro ⟨k, hk, hr, hc⟩
    exact ⟨by split at hr <;> omega, hc⟩
  · rintro ⟨hr, hc⟩
    split
    · exact ⟨n - 1 - r, by omega, by omega, hc⟩
    · exact ⟨r, hr, rfl, hc⟩

theorem pairCells_nodup (n : Nat) {right : Nat} (h : 0 < right) : (pairCells n right).Nodup := by
  refine List.nodup_flatMap.mpr ⟨fun k _ => ?_, ?_⟩
  · simp only [List.nodup_cons, List.mem_singleton, Prod.mk.injEq, List.not_mem_nil, not_false_eq_true,
      List.nodup_nil, and_true, true_and]
    omega
  · refine List.Pairwise.imp_of_mem ?_ List.nodup_range
    intro k l hk hl (hkl : k ≠ l) p hp hq
    rw [List.mem_range] at hk hl
    simp only [List.mem_cons, List.not_mem_nil, or_false, Prod.ext_iff, ← and_or_left] at hp hq
    obtain ⟨hpr, -⟩ := hp
    obtain ⟨hqr, -⟩ := hq
    rw [hpr] at hqr
    split at hqr <;> omega

theorem zigzag_size (v : Version) : zigzag v.size = (pairColumns v).flatMap (pairCells v.size) := by
  rw [zigzag, rightColumns_size]

/-- The pairs are right of each other and do not overlap. -/
theorem pairColumns_pairwise (v : Version) : (pairColumns v).Pairwise (fun a b => b < a - 1) := by
  cases v <;> decide

theorem pairColumns_pos (v : Version) : ∀ right ∈ pairColumns v, 0 < right := by
  cases v <;> decide

/-- Every column but 6 is in a pair. -/
theorem pairColumns_cover (v : Version) :
    ∀ c, c < v.size → c ≠ 6 → ∃ right ∈ pairColumns v, c = right ∨ c = right - 1 := by
  cases v <;> decide

theorem zigzag_nodup (v : Version) : (zigzag v.size).Nodup := by
  rw [zigzag_size]
  refine List.nodup_flatMap.mpr ⟨fun right hr => pairCells_nodup _ (pairColumns_pos v right hr), ?_⟩
  refine (pairColumns_pairwise v).imp ?_
  rintro a b hab ⟨r, c⟩ ha hb
  obtain ⟨-, ha⟩ := mem_pairCells.mp ha
  obtain ⟨-, hb⟩ := mem_pairCells.mp hb
  omega

theorem mem_zigzag {v : Version} {r c : Nat} (hr : r < v.size) (hc : c < v.size) (h6 : c ≠ 6) :
    (r, c) ∈ zigzag v.size := by
  obtain ⟨right, hmem, hright⟩ := pairColumns_cover v c hc h6
  rw [zigzag_size]
  exact List.mem_flatMap.mpr ⟨right, hmem, mem_pairCells.mpr ⟨hr, hright⟩⟩

/-! ### The order on the built matrix -/

/-- Column 6, which the path skips, is all finder, separator, timing and format cells (R211 to R213, R216). -/
theorem builtCell_column6 (v : Version) : ∀ r, r < v.size → builtCell v r 6 ≠ .unset := by
  cases v <;> decide

theorem isFree_mxbuild {v : Version} {r c : Nat} :
    (mxbuild v).isFree (r, c) = true ↔ r < v.size ∧ c < v.size ∧ builtCell v r c = .unset := by
  by_cases h : r < v.size ∧ c < v.size
  · simp only [Grid.isFree, mxbuild_cell? h.1 h.2, h, true_and]
    obtain hb | ⟨b, hb⟩ := builtCell_cases v r c <;> simp [hb, Cell.isReserved]
  · simp only [Grid.isFree, (mxbuild_rect v).cell?_eq_none h, Bool.false_eq_true, false_iff]
    exact fun hin => h ⟨hin.1, hin.2.1⟩

/-- The order goes exactly through the cells that MX_BUILD leaves Unset. -/
theorem mem_placementOrder_mxbuild {v : Version} {r c : Nat} :
    (r, c) ∈ placementOrder v.size (mxbuild v) ↔ r < v.size ∧ c < v.size ∧ builtCell v r c = .unset := by
  rw [placementOrder, List.mem_filter, isFree_mxbuild]
  refine and_iff_right_of_imp ?_
  rintro ⟨hr, hc, hb⟩
  refine mem_zigzag hr hc ?_
  rintro rfl
  exact builtCell_column6 v r hr hb

theorem placementOrder_nodup (v : Version) (g : Grid) : (placementOrder v.size g).Nodup :=
  (zigzag_nodup v).filter _

/-! ### The bit supply (R220) -/

theorem dataCount_add_ecCount (v : Version) (l : EccLevel) :
    (capacity v l).dataCount + (capacity v l).ecCount = totalCodewords v := by
  cases v <;> cases l <;> rfl

/-- The codewords a version and level take make a supply of the version's length. -/
theorem bitSupply_length {v : Version} {l : EccLevel} {d e : List Byte} (hd : d.length = (capacity v l).dataCount)
    (he : e.length = (capacity v l).ecCount) : (bitSupply v d e).length = supplyLength v := by
  have := dataCount_add_ecCount v l
  simp only [bitSupply, supplyLength, List.length_append, bitsOf_length, List.length_replicate, hd, he]
  omega

/-! ### Grids in MATRIX -/

/-- Cutting a grid's row-major list gives the grid back (R45). -/
theorem rowsOf_flatten {g : Grid} {n w : Nat} (hg : g.Rect n w) : rowsOf w n g.flatten = g := by
  induction g generalizing n with
  | nil =>
    obtain ⟨rfl, -⟩ := hg
    rfl
  | cons row g ih =>
    obtain ⟨rfl, hrows⟩ := hg
    have hrow : row.length = w := hrows 0 row rfl
    have htail := ih (n := g.length) ⟨rfl, fun r row' hr => hrows (r + 1) row' hr⟩
    rw [List.length_cons, rowsOf, List.flatten_cons, List.take_left' hrow, List.drop_left' hrow, htail]

theorem mxbuildCells_length (v : Version) : (mxbuildCells v).length = 625 := by
  have := v.size_sq_le
  rw [mxbuildCells, List.length_append, Grid.flatten_length (mxbuild_rect v), List.length_replicate]
  omega

/-- The cells of MATRIX after MX_BUILD hold mxbuild(V) (R217). -/
theorem readGrid_of_built {s : State} {v : Version} (h : s.matrix.toList = (mxbuildCells v).map some) :
    s.readGrid v = some (mxbuild v) := by
  have hlen := Grid.flatten_length (mxbuild_rect v)
  rw [State.readGrid_of_cells hlen, rowsOf_flatten (mxbuild_rect v)]
  intro k hk
  rw [h, List.getElem?_map, mxbuildCells, List.getElem?_append_left (by omega), List.getElem?_eq_getElem (by omega)]
  rfl

/-- The cells of MATRIX past the built matrix are Unset (R217). -/
theorem getElem?_of_built {s : State} {v : Version} (h : s.matrix.toList = (mxbuildCells v).map some) {k : Nat}
    (hlo : v.size * v.size ≤ k) (hhi : k < 625) : s.matrix.toList[k]? = some (some .unset) := by
  have hlen := Grid.flatten_length (mxbuild_rect v)
  rw [h, List.getElem?_map, mxbuildCells, List.getElem?_append_right (by omega),
    List.getElem?_replicate_of_lt (by omega)]
  rfl

/-- Every cell of a version's grid is as a PLACED (or MASKED) matrix prescribes (R223, R251). -/
def GridOk (v : Version) (masked : Bool) (g : Grid) : Prop :=
  ∀ r c, r < v.size → c < v.size → cellOk v masked r c (g.cell? r c) = true

/-- A grid read from MATRIX shows the cells of MATRIX. -/
theorem gridOk_of_readGrid {s : State} {v : Version} {g : Grid} {masked : Bool} (hg : s.readGrid v = some g)
    (h : ∀ r c, r < v.size → c < v.size → cellOk v masked r c (s.matrix.toList[r * v.size + c]?.join) = true) :
    GridOk v masked g := by
  obtain ⟨-, hcell⟩ := State.readGrid_eq_some hg
  intro r c hr hc
  simpa only [hcell r c hr hc, Option.join_some] using h r c hr hc

/-- What MATRIX holds after a grid is written to it: the grid's cells, and as before past them. -/
theorem writeGrid_gridOk {s : State} {v : Version} {g : Grid} {masked : Bool} (hrect : g.Rect v.size v.size)
    (h : GridOk v masked g) (r c : Nat) (hr : r < v.size) (hc : c < v.size) :
    cellOk v masked r c ((s.writeGrid g).matrix.toList[r * v.size + c]?.join) = true := by
  rw [(State.writeGrid_getElem? hrect).1 r c hr hc]
  exact h r c hr hc

theorem cellOk_placed_iff {v : Version} {r c : Nat} {x : Option Cell} :
    cellOk v false r c x = true ↔
      (builtCell v r c = .unset ∧ ∃ b, x = some (.data b)) ∨ ∃ b, builtCell v r c = .reserved b ∧ x = some (.reserved b) := by
  obtain hb | ⟨b, hb⟩ := builtCell_cases v r c
  · rcases x with _ | _ | _ | _ <;> simp [cellOk, hb]
  · rcases x with _ | _ | _ | _ <;> simp [cellOk, hb]

/-! ### MX_BUILD -/

theorem bodyMxBuild_cellsOk {u v : State} (h : bodyMxBuild u = .ok v) : v.CellsOk := by
  obtain ⟨ver, -, rfl⟩ := bodyMxBuild_ok h
  exact overlayList_full _ _ (by rw [mxbuildCells_length, Vector.length_toList])

/-! ### MX_PLACE -/

/-- A supply of the order's length makes a Data cell of every Unset cell of the built matrix, and keeps the others. -/
theorem mxplace_mxbuild_gridOk {v : Version} {bits : List Bool}
    (hlen : bits.length = (placementOrder v.size (mxbuild v)).length) :
    GridOk v false (mxplace (mxbuild v) (placementOrder v.size (mxbuild v)) bits) := by
  intro r c hr hc
  obtain hb | ⟨b, hb⟩ := builtCell_cases v r c
  · obtain ⟨k, hk⟩ := List.mem_iff_getElem?.mp (mem_placementOrder_mxbuild.mpr ⟨hr, hc, hb⟩)
    obtain ⟨hlt, -⟩ := List.getElem?_eq_some_iff.mp hk
    rw [mxplace_cell?_getElem (placementOrder_nodup v _) hk (List.getElem?_eq_getElem (hlen ▸ hlt)),
      mxbuild_cell? hr hc]
    exact cellOk_placed_iff.mpr (.inl ⟨hb, _, rfl⟩)
  · have hnot : (r, c) ∉ placementOrder v.size (mxbuild v) := fun hmem => by
      simp [mem_placementOrder_mxbuild, hb] at hmem
    rw [mxplace_cell?_of_notMem hnot, mxbuild_cell? hr hc, hb]
    exact cellOk_placed_iff.mpr (.inr ⟨b, hb, rfl⟩)

theorem bodyMxPlace_cellsOk {u v : State} (h : bodyMxPlace u = .ok v) (hu : u.CellsOk) : v.CellsOk := by
  obtain ⟨ver, mv, g, d, e, -, hmx, hg, hfit, hd, he, rfl⟩ := bodyMxPlace_ok h
  have hbuilt : u.matrix.toList = (mxbuildCells mv).map some := by simpa only [State.CellsOk, hmx] using hu
  obtain rfl : g = mxbuild mv := by simpa [readGrid_of_built hbuilt] using hg.symm
  have hrect := Grid.rect_mxplace (mxbuild_rect mv) (placementOrder mv.size (mxbuild mv)) (bitSupply ver d e)
  have hbits := (bitSupply_length (readBuffer_length hd) (readBuffer_length he)).trans hfit
  refine ⟨writeGrid_gridOk hrect (mxplace_mxbuild_gridOk hbits), fun k hlo hhi => ?_⟩
  exact ((State.writeGrid_getElem? hrect).2 k hlo).trans (getElem?_of_built hbuilt hlo hhi)

/-! ### MASK_SELECT -/

theorem formatBitAt_eq_some {n r c i : Nat} (h : formatBitAt n r c = some i) :
    i < 15 ∧ (formatCell1 i = (r, c) ∨ formatCell2 n i = (r, c)) := by
  have hp := List.find?_some h
  refine ⟨List.mem_range.mp (List.mem_of_find?_eq_some h), ?_⟩
  simpa using hp

/-- The format cells are Reserved in the built matrix (R216). -/
theorem builtCell_formatCells (v : Version) : ∀ i, i < 15 →
    builtCell v (formatCell1 i).1 (formatCell1 i).2 ≠ .unset ∧
      builtCell v (formatCell2 v.size i).1 (formatCell2 v.size i).2 ≠ .unset := by
  cases v <;> decide

theorem builtCell_of_formatBit {v : Version} {r c i : Nat} (h : formatBitAt v.size r c = some i) :
    ∃ b, builtCell v r c = .reserved b := by
  obtain ⟨hi, hcell⟩ := formatBitAt_eq_some h
  obtain ⟨h1, h2⟩ := builtCell_formatCells v i hi
  refine (builtCell_cases v r c).resolve_left ?_
  obtain hcell | hcell := hcell
  · simpa only [hcell] using h1
  · simpa only [hcell] using h2

/-- Masking a placed matrix and writing a format word keeps what a MASKED matrix prescribes (R251). -/
theorem writeFormat_applyMask_gridOk {v : Version} {g : Grid} (m : BitVec 3) (f : BitVec 15) (h : GridOk v false g) :
    GridOk v true (writeFormat v.size (applyMask g m) f) := by
  intro r c hr hc
  rw [writeFormat_cell?, applyMask_cell?]
  obtain ⟨hb, b, hx⟩ | ⟨b, hb, hx⟩ := cellOk_placed_iff.mp (h r c hr hc)
  · have hf : formatBitAt v.size r c = none := Option.eq_none_iff_forall_ne_some.mpr fun i hi => by
      obtain ⟨b', hb'⟩ := builtCell_of_formatBit hi
      simp [hb] at hb'
    simp [hf, hx, cellOk, hb, Cell.maskWith]
  · cases hf : formatBitAt v.size r c with
    | none => simp [hx, cellOk, hb, Cell.maskWith]
    | some i => simp [hx, cellOk, hb, Cell.maskWith, hf]

/-- A format cell of the masked matrix shows its bit of the word (R248). -/
theorem writeFormat_formatCell {v : Version} {g : Grid} (hg : g.Rect v.size v.size) (f : BitVec 15) {r c i : Nat}
    (hr : r < v.size) (hc : c < v.size) (hi : formatBitAt v.size r c = some i) :
    (writeFormat v.size g f).cell? r c = some (.reserved (f.getLsbD i)) := by
  obtain ⟨k, hk⟩ := hg.cell?_isSome hr hc
  simp [writeFormat_cell?, hi, hk]

theorem select_cellsOk {s : State} {mv : Version} {g : Grid} (hmx : s.mx = .placed mv) (hg : s.readGrid mv = some g)
    (hs : s.CellsOk) : (s.select mv g).CellsOk := by
  obtain ⟨hcells, hrest⟩ : (∀ r c, r < mv.size → c < mv.size →
      cellOk mv false r c (s.matrix.toList[r * mv.size + c]?.join) = true) ∧
      ∀ k, mv.size * mv.size ≤ k → k < 625 → s.matrix.toList[k]? = some (some .unset) := by
    simpa only [State.CellsOk, hmx] using hs
  obtain ⟨hrect, -⟩ := State.readGrid_eq_some hg
  have hmasked : (applyMask g (s.select mv g).mask).Rect mv.size mv.size := Grid.rect_mapCells hrect _
  have hfmt : (writeFormat mv.size (applyMask g (s.select mv g).mask)
      (formatWord s.level (s.select mv g).mask)).Rect mv.size mv.size := Grid.rect_mapCells hmasked _
  obtain ⟨hin, hpast⟩ := State.writeGrid_getElem? (s := s) hfmt
  refine ⟨writeGrid_gridOk hfmt (writeFormat_applyMask_gridOk _ _ (gridOk_of_readGrid hg hcells)), fun k hlo hhi => ?_,
    s.level, fun r c i hr hc hi => ?_⟩
  · exact (hpast k hlo).trans (hrest k hlo hhi)
  · exact (hin r c hr hc).trans (congrArg some (writeFormat_formatCell hmasked _ hr hc hi))

end Sys2Proof.Proofs
end

section
/-! Scores (R242 to R247) and the choice of the mask (R250): the score's bound, and that MASK_SELECT keeps the first mask
of least score. -/

namespace Sys2Proof.Proofs

open Sys2Proof Sys2Proof.Machine Sys2Proof.Spec

/-! ### The bound of a score (R247) -/

/-- A run of k modules scores at most k (R243). -/
theorem runPoints_le (k : Nat) : runPoints k ≤ k := by
  simp only [runPoints]
  split <;> omega

theorem runsFrom_le (b : Bool) (run : Nat) (l : List Bool) : runsFrom b run l ≤ run + l.length := by
  induction l generalizing b run with
  | nil => exact runPoints_le run
  | cons x xs ih =>
    have hsame := ih b (run + 1)
    have hnew := ih x 1
    have hrun := runPoints_le run
    simp only [runsFrom, List.length_cons]
    split <;> omega

theorem lineRuns_le (l : List Bool) : lineRuns l ≤ l.length := by
  cases l with
  | nil => exact Nat.le_refl 0
  | cons b bs =>
    have := runsFrom_le b 1 bs
    simp only [lineRuns, List.length_cons]
    omega

/-- A and its reverse start with different modules, so at most one of them starts at a module (R245). -/
theorem lineFinders_le (l : List Bool) : lineFinders l ≤ l.length := by
  induction l with
  | nil => exact Nat.le_refl 0
  | cons b bs ih =>
    have hone : (if finderSequence.isPrefixOf (b :: bs) then 1 else 0) +
        (if finderSequence.reverse.isPrefixOf (b :: bs) then 1 else 0) ≤ 1 := by
      cases b <;> simp [finderSequence, List.isPrefixOf] <;> split <;> omega
    simp only [lineFinders, List.length_cons]
    omega

theorem blocksBetween_le (a b : List Bool) : blocksBetween a b ≤ a.length := by
  fun_induction blocksBetween a b with
  | case1 x x' xs y y' ys ih =>
    simp only [List.length_cons] at ih ⊢
    split <;> omega
  | case2 => exact Nat.zero_le _

theorem sum_map_le {l : List (List Bool)} {f : List Bool → Nat} {w : Nat} (h : ∀ x ∈ l, f x ≤ w) :
    (l.map f).sum ≤ l.length * w := by
  have := List.sum_le_card_nsmul (l.map f) w (by simpa using h)
  simpa using this

theorem blocksOf_le {rows : List (List Bool)} {w : Nat} (h : ∀ row ∈ rows, row.length ≤ w) :
    blocksOf rows ≤ rows.length * w := by
  induction rows with
  | nil => exact Nat.zero_le _
  | cons r rest ih =>
    have hr : r.length ≤ w := h r (by simp)
    have hrest := ih fun row hrow => h row (List.mem_cons_of_mem r hrow)
    cases rest with
    | nil => exact Nat.zero_le _
    | cons r' rest =>
      have := blocksBetween_le r r'
      rw [blocksOf, List.length_cons, Nat.succ_mul]
      omega

theorem linesOf_length (rows : List (List Bool)) : (linesOf rows).length = 2 * rows.length := by
  simp only [linesOf, columnsOf, List.length_append, List.length_map, List.length_range]
  omega

theorem length_of_mem_linesOf {rows : List (List Bool)} {n : Nat} (h : square rows n) {l : List Bool}
    (hl : l ∈ linesOf rows) : l.length = n := by
  obtain hl | hl := List.mem_append.mp hl
  · exact h.2 l hl
  · obtain ⟨c, -, rfl⟩ := List.mem_map.mp hl
    rw [List.length_map, h.1]

theorem pen1Of_le {rows : List (List Bool)} {n : Nat} (h : square rows n) : pen1Of rows ≤ 2 * (n * n) := by
  have := sum_map_le (f := lineRuns) (w := n) fun l hl => length_of_mem_linesOf h hl ▸ lineRuns_le l
  rwa [linesOf_length, h.1, Nat.mul_assoc] at this

theorem pen2Of_le {rows : List (List Bool)} {n : Nat} (h : square rows n) : pen2Of rows ≤ 3 * (n * n) := by
  have := blocksOf_le fun row hrow => (h.2 row hrow).le
  rw [h.1] at this
  exact Nat.mul_le_mul_left 3 this

theorem pen3Of_le {rows : List (List Bool)} {n : Nat} (h : square rows n) : pen3Of rows ≤ 40 * (2 * (n * n)) := by
  have := sum_map_le (f := lineFinders) (w := n) fun l hl => length_of_mem_linesOf h hl ▸ lineFinders_le l
  rw [linesOf_length, h.1, Nat.mul_assoc] at this
  exact Nat.mul_le_mul_left 40 this

theorem darkCount_le {rows : List (List Bool)} {n : Nat} (h : square rows n) : darkCount rows ≤ n * n := by
  have := sum_map_le (f := fun row => row.count true) (w := n) fun row hrow =>
    h.2 row hrow ▸ List.count_le_length
  rwa [h.1] at this

/-- The balance is off by at most half of the modules (R246). -/
theorem balancePoints_le {dk t : Nat} (h : dk ≤ t) : balancePoints dk t ≤ 100 := by
  have hd : distance (100 * dk) (50 * t) ≤ 5 * t * 10 := by
    simp only [distance]
    omega
  have := Nat.div_le_of_le_mul hd
  simp only [balancePoints]
  omega

theorem pen4Of_le {rows : List (List Bool)} {n : Nat} (h : square rows n) : pen4Of rows ≤ 100 :=
  balancePoints_le (by rw [h.1]; exact darkCount_le h)

/-- The bound of R247. -/
theorem penaltyOf_total_lt {g : Grid} {n : Nat} (hn : n ≤ 25) (h : square (picture g) n) :
    (penaltyOf g).total < 2 ^ 16 := by
  have h1 := pen1Of_le h
  have h2 := pen2Of_le h
  have h3 := pen3Of_le h
  have h4 := pen4Of_le h
  have hnn : n * n ≤ 25 * 25 := Nat.mul_le_mul hn hn
  simp only [Penalty.total, penaltyOf]
  omega

theorem picture_square {g : Grid} {n : Nat} (hg : g.Rect n n) : square (picture g) n := by
  refine ⟨by rw [picture, List.length_map, hg.1], fun row hrow => ?_⟩
  obtain ⟨cells, hcells, rfl⟩ := List.mem_map.mp hrow
  obtain ⟨r, hr⟩ := List.mem_iff_getElem?.mp hcells
  rw [List.length_map, hg.2 r cells hr]

theorem version_size_le (v : Version) : v.size ≤ 25 := by cases v <;> decide

/-- A candidate's score fits a register (R247). -/
theorem candidatePenalty_total_lt {g : Grid} {v : Version} (hg : g.Rect v.size v.size) (m : BitVec 3) :
    (candidatePenalty g m).total < 2 ^ 16 :=
  penaltyOf_total_lt (version_size_le v) (picture_square (Grid.rect_mapCells hg _))

/-! ### The first least mask (R250) -/

theorem allMasks_getD {α : Type} (f : BitVec 3 → α) (d : α) {k : Nat} (hk : k < 8) :
    (allMasks.map f).getD k d = f (BitVec.ofNat 3 k) := by
  interval_cases k <;> rfl

theorem mem_allMasks (m : BitVec 3) : m ∈ allMasks := by
  revert m
  decide

theorem allMasks_pairwise : allMasks.Pairwise (fun m m' => m.toNat < m'.toNat) := by decide

/-- The mask's score is at most every score. -/
def isLeast (f : BitVec 3 → Nat) (m : BitVec 3) : Bool := allMasks.all fun m' => f m ≤ f m'

theorem isLeast_iff {f : BitVec 3 → Nat} {m : BitVec 3} : isLeast f m = true ↔ ∀ m', f m ≤ f m' := by
  simp [isLeast, mem_allMasks]

theorem leastMask_eq_find? (f : BitVec 3 → Nat) :
    leastMask (allMasks.map fun m => (m, f m)) = (allMasks.find? (isLeast f)).getD 0#3 := by
  have hpred : (fun p : BitVec 3 × Nat => (allMasks.map fun m => (m, f m)).all fun q => p.2 ≤ q.2) ∘
      (fun m => (m, f m)) = isLeast f := by
    funext m
    rw [Function.comp_apply, List.all_map]
    rfl
  rw [leastMask, List.find?_map, hpred]
  cases allMasks.find? (isLeast f) <;> rfl

/-- In a list in the masks' order, a mask below the one after `before` is in `before`. -/
theorem mem_before_of_lt {before after : List (BitVec 3)} {b m : BitVec 3} (hsplit : allMasks = before ++ b :: after)
    (hm : m.toNat < b.toNat) : m ∈ before := by
  have hmem : m ∈ before ++ b :: after := hsplit ▸ mem_allMasks m
  have hsorted : (before ++ b :: after).Pairwise (fun m m' => m.toNat < m'.toNat) := hsplit ▸ allMasks_pairwise
  obtain ⟨-, htail, -⟩ := List.pairwise_append.mp hsorted
  obtain ⟨hafter, -⟩ := List.pairwise_cons.mp htail
  obtain h | h := List.mem_append.mp hmem
  · exact h
  · obtain rfl | h := List.mem_cons.mp h
    · omega
    · have := hafter m h
      omega

/-- `leastMask` finds the first mask whose score is least (R250). -/
theorem leastMask_isFirstLeast (f : BitVec 3 → Nat) {b : BitVec 3}
    (hb : leastMask (allMasks.map fun m => (m, f m)) = b) :
    (∀ m, f b ≤ f m) ∧ ∀ m : BitVec 3, m.toNat < b.toNat → f b < f m := by
  rw [leastMask_eq_find?] at hb
  cases hfind : allMasks.find? (isLeast f) with
  | none =>
    have hleast : isLeast f (Function.argmin f) = true := isLeast_iff.mpr fun m => Function.argmin_le f m
    exact absurd hleast (List.find?_eq_none.mp hfind _ (mem_allMasks _))
  | some b' =>
    obtain rfl : b' = b := by simpa [hfind] using hb
    obtain ⟨hp, before, after, hsplit, hbefore⟩ := List.find?_eq_some_iff_append.mp hfind
    have hmin := isLeast_iff.mp hp
    refine ⟨hmin, fun m hm => lt_of_not_ge fun hle => ?_⟩
    have hm' : isLeast f m = true := isLeast_iff.mpr fun m' => hle.trans (hmin m')
    simpa [hm'] using hbefore m (mem_before_of_lt hsplit hm)

/-! ### What MASK_SCORE and MASK_SELECT leave in the registers -/

/-- SCORE is the sum of the components (R39, R247). -/
theorem writePenalty_score (s : State) (p : Penalty) :
    (s.writePenalty p).score =
      (s.writePenalty p).pen1 + (s.writePenalty p).pen2 + (s.writePenalty p).pen3 + (s.writePenalty p).pen4 := by
  simp [Penalty.total, BitVec.ofNat_add]

theorem select_mask (s : State) (mv : Version) (g : Grid) :
    (s.select mv g).mask = leastMask (allMasks.map fun m => (m, (candidatePenalty g m).total)) := by
  simp [State.select, Function.comp_def]

theorem select_scores (s : State) (mv : Version) (g : Grid) {k : Nat} (hk : k < 8) :
    (s.select mv g).scores[k] = BitVec.ofNat 32 (candidatePenalty g (BitVec.ofNat 3 k)).total := by
  simp only [State.select, Vector.getElem_ofFn, List.map_map, Function.comp_def]
  rw [allMasks_getD (fun m => (candidatePenalty g m).total) 0 hk]

/-- MASK is the first mask of least score in SCORES (R250, R251). -/
theorem select_maskIsLeast {s : State} {mv : Version} {g : Grid} (hg : g.Rect mv.size mv.size) (k : Fin 8) :
    (s.select mv g).scores[(s.select mv g).mask.toNat] ≤ (s.select mv g).scores[k.val] ∧
      (k.val < (s.select mv g).mask.toNat →
        (s.select mv g).scores[(s.select mv g).mask.toNat] < (s.select mv g).scores[k.val]) := by
  obtain ⟨hle, hlt⟩ := leastMask_isFirstLeast _ (select_mask s mv g).symm
  have fits : ∀ m, (BitVec.ofNat 32 (candidatePenalty g m).total).toNat = (candidatePenalty g m).total := fun m => by
    have := candidatePenalty_total_lt hg m
    rw [BitVec.toNat_ofNat]
    omega
  have hk : (BitVec.ofNat 3 k.val).toNat = k.val := by
    rw [BitVec.toNat_ofNat]
    omega
  rw [select_scores s mv g k.isLt, select_scores s mv g (s.select mv g).mask.isLt, BitVec.ofNat_toNat,
    BitVec.setWidth_eq, BitVec.le_def, BitVec.lt_def, fits, fits]
  exact ⟨hle _, fun hkm => hlt _ (hk.symm ▸ hkm)⟩

end Sys2Proof.Proofs
end

section
/-! The machine invariant is kept by every step: by each update of a host turn, by each stage of a command, and by the
end of a command. -/

namespace Sys2Proof.Proofs

open Sys2Proof Sys2Proof.Machine Sys2Proof.Spec

/-! ### Host turns -/

theorem inv_setPc {s : State} (h : s.Inv) (n : Nat) : (s.setPc n).Inv := { h with }

theorem inv_setRd {s : State} (h : s.Inv) (v : Word) : (s.setRd v).Inv := { h with }

theorem inv_setRdata {s : State} (h : s.Inv) (v : Word) (n : Nat) : State.Inv { s.setRdata v with draws := n } := { h with }

theorem inv_setDelay {s : State} (h : s.Inv) (n : Nat) : State.Inv { s with delay := n } := { h with }

theorem inv_writeStatus {s : State} (h : s.Inv) (v : Word) : (s.writeStatus v).Inv :=
  { h with
    pendingClear := fun hp => by
      obtain ⟨hd, he⟩ := h.pendingClear hp
      simp [hd, he]
    errHasCode := fun he => h.errHasCode (by simp_all) }

/-- After power-on reset the invariant holds. -/
theorem inv_reset : State.reset.Inv where
  memoryCanonical := Memory.wf_nil
  pendingClear h := by cases h
  errHasCode h := by cases h
  codeRange := by decide
  noCodeNoInfo _ := ⟨rfl, rfl⟩
  scoreIsSum := rfl
  maskIsLeast := by decide
  cells := trivial

theorem inv_softReset {s : State} (h : s.Inv) : s.softReset.Inv :=
  { inv_reset with
    memoryCanonical := by
      rw [State.softReset_mem]
      split
      · exact Memory.wf_nil
      · exact h.memoryCanonical }

theorem inv_writeCtrl {s : State} (h : s.Inv) (v : Word) : (s.writeCtrl v).Inv := by
  cases hv : v.getLsbD 1 with
  | true =>
    rw [writeCtrl_of_srst hv]
    exact inv_softReset h
  | false =>
    rw [writeCtrl_of_not_srst hv]
    exact { h with }

theorem inv_writeCmd {s : State} (h : s.Inv) (w : Word) : (s.writeCmd w).Inv := by
  cases hp : s.pending with
  | true =>
    rw [writeCmd_of_pending hp]
    exact { h with }
  | false =>
    obtain ⟨d, l, n, hw⟩ := writeCmd_of_idle hp w
    rw [hw]
    exact { h with
      pendingClear := fun _ => ⟨rfl, rfl⟩
      errHasCode := fun he => by cases he }

theorem inv_writeReg {s : State} (h : s.Inv) (r : RegName) (v : Word) : (s.writeReg r v).Inv := by
  cases r with
  | ctrl => exact inv_writeCtrl h v
  | status => exact inv_writeStatus h v
  | cmd => exact inv_writeCmd h v
  | config | arg0 | arg1 => exact { h with }
  | _ => exact h

/-- A window write that is no bus error stays inside its window (R60, R63). -/
theorem inv_writeWindow {s : State} (h : s.Inv) {b : BufName} {o : Nat} {w : Width} (v : Word)
    (hb : regionOf o = .window b) (halign : o % w.bytes = 0) : (s.writeWindow b o w.bytes v).Inv := by
  obtain ⟨hlo, hhi⟩ := regionOf_window.mp hb
  have stored : b.windowBase + b.windowSize ≤ 0x2C0 → 0x100 ≤ b.windowBase → b.windowSize % 4 = 0 →
      b.windowBase % 4 = 0 → (s.mem.setAll o (bytesOfWord v w.bytes)).wf := fun hend hbase hsize hbase4 => by
    refine Memory.wf_setAll h.memoryCanonical (hbase.trans hlo) ?_
    rw [bytesOfWord_length]
    cases w <;> simp only [Width.bytes] at halign ⊢ <;> omega
  cases b with
  | text | data | ec => exact { h with memoryCanonical := stored (by decide) (by decide) rfl rfl }
  | gen | matrix => exact h

theorem aligned_of_window {a : BusAccess} {b : BufName} (h : a.busError = false) (hb : regionOf a.offset = .window b) :
    a.offset % a.width.bytes = 0 := by
  simpa [BusAccess.busError, hb] using h

theorem inv_access {s t : State} {a : BusAccess} (hs : s.Inv) (h : s.access a = .next t) : t.Inv := by
  obtain ⟨hbus, -, hperform⟩ := State.access_eq_next h
  obtain ⟨o, w, r, -, -, rfl⟩ | ⟨o, w, b, -, -, rfl⟩ | ⟨o, w, v, r, -, -, rfl⟩ | ⟨o, w, v, b, rfl, hb, rfl⟩ :=
    State.perform_cases hperform
  · exact inv_setRd hs _
  · exact inv_setRdata hs _ _
  · exact inv_writeReg hs r v
  · exact inv_writeWindow hs v hb (aligned_of_window hbus hb)

theorem inv_hostTurn {s t : State} (hs : s.Inv) (h : s.hostTurn = .next t) : t.Inv := by
  obtain rfl | ⟨a, ha⟩ | ⟨n, rfl⟩ := State.hostTurn_cases h
  · exact hs
  · exact inv_access (inv_setPc hs _) ha
  · exact inv_setPc hs n

/-! ### Stages -/

theorem wf_setAll_window {m : Memory} (hm : m.wf) {b : BufName} {vs : List Byte} (hend : b.windowBase + vs.length ≤ 0x2C0) :
    (m.setAll b.windowBase vs).wf :=
  Memory.wf_setAll hm (by cases b <;> decide) hend

theorem bodyBsBuild_inv {u v : State} (h : bodyBsBuild u = .ok v) (hu : u.Inv) : v.Inv ∧ v.err = u.err := by
  obtain ⟨vs, hle, -, hmem, -⟩ := bodyBsBuild_data h
  obtain ⟨cap, p, -, -, -, rfl⟩ := bodyBsBuild_ok h
  have hwf := wf_setAll_window (b := .data) hu.memoryCanonical (vs := vs) (by simp only [BufName.windowBase]; omega)
  exact ⟨{ hu with memoryCanonical := hmem ▸ hwf }, rfl⟩

theorem bodyRsEnc_inv {x : Bool} {u v : State} (h : bodyRsEnc x u = .ok v) (hu : u.Inv) : v.Inv ∧ v.err = u.err := by
  obtain ⟨vs, hle, -, hmem, -⟩ := bodyRsEnc_ec h
  obtain ⟨nd, n, d, -, -, rfl⟩ := bodyRsEnc_ok h
  have hwf := wf_setAll_window (b := .ec) hu.memoryCanonical (vs := vs) (by simp only [BufName.windowBase]; omega)
  exact ⟨{ hu with memoryCanonical := hmem ▸ hwf }, rfl⟩

theorem bodyRsGen_inv {x : Bool} {u v : State} (h : bodyRsGen x u = .ok v) (hu : u.Inv) : v.Inv ∧ v.err = u.err := by
  obtain ⟨vs, hle, -, hmem, -⟩ := bodyRsGen_gen h
  obtain ⟨n, -, rfl⟩ := bodyRsGen_ok h
  have hwf := wf_setAll_window (b := .gen) hu.memoryCanonical (vs := vs) (by simp only [BufName.windowBase]; omega)
  exact ⟨{ hu with memoryCanonical := hmem ▸ hwf }, rfl⟩

theorem bodyMxBuild_inv {u v : State} (h : bodyMxBuild u = .ok v) (hu : u.Inv) : v.Inv ∧ v.err = u.err := by
  have hcells := bodyMxBuild_cellsOk h
  obtain ⟨ver, -, rfl⟩ := bodyMxBuild_ok h
  exact ⟨{ hu with cells := hcells }, rfl⟩

theorem bodyMxPlace_inv {u v : State} (h : bodyMxPlace u = .ok v) (hu : u.Inv) : v.Inv ∧ v.err = u.err := by
  have hcells := bodyMxPlace_cellsOk h hu.cells
  obtain ⟨ver, mv, g, d, e, -, -, -, -, -, -, rfl⟩ := bodyMxPlace_ok h
  exact ⟨{ hu with cells := hcells }, rfl⟩

theorem bodyMaskScore_inv {m : BitVec 3} {u v : State} (h : bodyMaskScore m u = .ok v) (hu : u.Inv) :
    v.Inv ∧ v.err = u.err := by
  obtain ⟨mv, g, -, -, rfl⟩ := bodyMaskScore_ok h
  exact ⟨{ hu with scoreIsSum := writePenalty_score u _ }, rfl⟩

theorem bodyMaskSelect_inv {u v : State} (h : bodyMaskSelect u = .ok v) (hu : u.Inv) : v.Inv ∧ v.err = u.err := by
  obtain ⟨ver, mv, g, -, hmx, hg, rfl⟩ := bodyMaskSelect_ok h
  exact ⟨{ hu with
    scoreIsSum := writePenalty_score u _
    maskIsLeast := select_maskIsLeast (State.readGrid_eq_some hg).1
    cells := select_cellsOk hmx hg hu.cells }, rfl⟩

/-- Every stage of every command keeps the invariant, and ERR. -/
theorem stage_inv {i : Instr} {b : State → Body} (hb : b ∈ stages i) {u v : State} (h : b u = .ok v) (hu : u.Inv) :
    v.Inv ∧ v.err = u.err := by
  cases i with
  | nop => simp [stages] at hb
  | gfMul | gfExp | gfLog | tblCap | tblGeom | tblFmt =>
    obtain ⟨w, rfl⟩ := stage_ok_of_result rfl (by simp) hb h
    exact ⟨{ hu with }, rfl⟩
  | rsGen x =>
    obtain rfl := List.mem_singleton.mp hb
    exact bodyRsGen_inv h hu
  | rsEnc x =>
    obtain rfl := List.mem_singleton.mp hb
    exact bodyRsEnc_inv h hu
  | bsBuild =>
    obtain rfl := List.mem_singleton.mp hb
    exact bodyBsBuild_inv h hu
  | mxBuild =>
    obtain rfl := List.mem_singleton.mp hb
    exact bodyMxBuild_inv h hu
  | mxPlace =>
    obtain rfl := List.mem_singleton.mp hb
    exact bodyMxPlace_inv h hu
  | maskScore m =>
    obtain rfl := List.mem_singleton.mp hb
    exact bodyMaskScore_inv h hu
  | maskSelect =>
    obtain rfl := List.mem_singleton.mp hb
    exact bodyMaskSelect_inv h hu
  | encode =>
    simp only [stages, List.mem_cons, List.not_mem_nil, or_false] at hb
    obtain rfl | rfl | rfl | rfl | rfl := hb
    · exact bodyBsBuild_inv h hu
    · exact bodyRsEnc_inv h hu
    · exact bodyMxBuild_inv h hu
    · exact bodyMxPlace_inv h hu
    · exact bodyMaskSelect_inv h hu

/-! ### The end of a command -/

/-- `complete()` clears the code, so it needs ERR clear (R302). -/
theorem inv_complete {s : State} (h : s.Inv) (herr : s.err = false) : s.complete.Inv :=
  { h with
    pendingClear := fun hp => by cases hp
    errHasCode := fun he => by simp [herr] at he
    codeRange := by simp
    noCodeNoInfo := fun _ => ⟨rfl, rfl⟩ }

theorem errCode_range (e : ErrCode) : e.code ≠ 0#4 ∧ e.code.toNat ≤ 8 := by cases e <;> decide

/-- `raise` leaves a code of R300 (R303). -/
theorem inv_raise {s : State} (h : s.Inv) (e : ErrCode) (st : Byte) : (s.raise e st).Inv :=
  { h with
    pendingClear := fun hp => by cases hp
    errHasCode := fun _ => (errCode_range e).1
    codeRange := (errCode_range e).2
    noCodeNoInfo := fun hc => absurd hc (errCode_range e).1 }

/-- A command that starts with ERR clear keeps the invariant. -/
theorem inv_exec {i : Instr} {s t : State} (hs : s.Inv) (herr : s.err = false) (h : exec i s = .next t) : t.Inv := by
  rw [exec_eq_runStages] at h
  refine runStages_induction (P := fun u => u.Inv ∧ u.err = false) ⟨hs, herr⟩ (fun b hb u v hu hv => ?_)
    (fun u hu => inv_complete hu.1 hu.2) (fun u e st hu => inv_raise hu.1 e st) h
  obtain ⟨hv, hkeep⟩ := stage_inv hb hv hu.1
  exact ⟨hv, hkeep.trans hu.2⟩

/-- The command step keeps the invariant: acceptance cleared ERR (R301). -/
theorem inv_coreStep {s t : State} (hs : s.Inv) (hp : s.pending = true) (h : coreStep s = .next t) : t.Inv := by
  obtain ⟨-, herr⟩ := hs.pendingClear hp
  simp only [coreStep] at h
  split at h
  · exact inv_exec hs herr h
  · cases h
    exact inv_raise hs _ _

/-- Settles O9: a step is a command step or a host turn. -/
theorem everyStepKeepsTheMachineInvariant : Obligations.EveryStepKeepsTheMachineInvariant := by
  intro s t hs h
  simp only [step] at h
  split at h
  · split at h
    · exact inv_coreStep hs ‹_› h
    · exact inv_hostTurn (inv_setDelay hs _) h
  · exact inv_hostTurn hs h

end Sys2Proof.Proofs
end

section
/-! The regions of the map and the accesses to them (R60 to R67): the bus errors, what a window read answers and a window
write stores, and what an access cannot change. -/

namespace Sys2Proof.Proofs

open Sys2Proof Sys2Proof.Machine Sys2Proof.Spec

/-! ### Bus errors (R61 to R63) -/

/-- The check on an access is the spec's list of bus errors. -/
theorem busError_iff_badAccess (a : BusAccess) : a.busError = true ↔ badAccess a := by
  simp only [BusAccess.busError, badAccess]
  cases hr : regionOf a.offset with
  | registers =>
    have hlt := regionOf_registers.mp hr
    have hne : ¬0x100 ≤ a.offset := by omega
    have hgap : ¬0x070 ≤ a.offset := by omega
    have hgap' : ¬0x2C0 ≤ a.offset := by omega
    have hend : ¬0x680 ≤ a.offset := by omega
    simp only [Bool.or_eq_true, bne_iff_ne, hlt, hne, hgap, hgap', hend, true_and, false_and, false_or, or_false]
  | reserved =>
    have := regionOf_reserved.mp hr
    simp only [true_iff]
    omega
  | window b =>
    obtain ⟨hlo, hhi⟩ := regionOf_window.mp hr
    obtain ⟨hge, hgap, hend⟩ : 0x100 ≤ a.offset ∧ ¬(0x2C0 ≤ a.offset ∧ a.offset < 0x400) ∧ ¬0x680 ≤ a.offset := by
      cases b <;> simp only [BufName.windowBase, BufName.windowSize] at hlo hhi <;> omega
    have hpast : ¬a.offset < 0x100 := by omega
    have hreg : ¬a.offset < 0x070 := by omega
    simp only [bne_iff_ne, hge, hgap, hend, hpast, hreg, and_false, false_and, false_or, true_and]

theorem busError_eq_false_iff (a : BusAccess) : a.busError = false ↔ ¬badAccess a := by
  rw [← busError_iff_badAccess, Bool.not_eq_true]

/-- An access that is no bus error has an effect. -/
theorem perform_answers (s : State) {a : BusAccess} (h : a.busError = false) : ∃ t, s.perform a = .next t := by
  cases hr : regionOf a.offset with
  | registers =>
    have halign : a.offset % 4 = 0 := by
      simp only [BusAccess.busError, hr, Bool.or_eq_false_iff, bne_eq_false_iff_eq] at h
      exact h.2
    obtain ⟨r, hreg⟩ := regAt_isSome (regionOf_registers.mp hr) halign
    cases a <;> simp only [BusAccess.offset] at hr hreg <;> simp [State.perform, hr, hreg]
  | window b => cases a <;> simp only [BusAccess.offset] at hr <;> simp [State.perform, hr]
  | reserved => simp [BusAccess.busError, hr] at h

theorem access_eq_busError_iff (s : State) (a : BusAccess) : s.access a = .fault .busError ↔ a.busError = true := by
  cases hb : a.busError with
  | true => simp [State.access, hb]
  | false =>
    obtain ⟨t, ht⟩ := perform_answers s hb
    simp only [State.access, hb, ht, Bool.false_eq_true, if_false, iff_false]
    split <;> simp

/-! ### Aligned accesses lie in one region (R60, R63) -/

/-- An aligned window access ends inside its window. -/
theorem window_access_end {o : Nat} {w : Width} {b : BufName} (hb : regionOf o = .window b) (halign : o % w.bytes = 0) :
    o + w.bytes ≤ b.windowBase + b.windowSize := by
  obtain ⟨-, hhi⟩ := regionOf_window.mp hb
  obtain ⟨hbase, hsize⟩ : b.windowBase % 4 = 0 ∧ b.windowSize % 4 = 0 := by cases b <;> decide
  cases w <;> simp only [Width.bytes] at halign ⊢ <;> omega

/-- Every byte of an access that is no bus error is in the region of the first. -/
theorem regionOf_lane {a : BusAccess} (h : a.busError = false) {k : Nat} (hk : k < a.width.bytes) :
    regionOf (a.offset + k) = regionOf a.offset := by
  cases hr : regionOf a.offset with
  | registers =>
    have hlt := regionOf_registers.mp hr
    simp only [BusAccess.busError, hr, Bool.or_eq_false_iff, bne_eq_false_iff_eq] at h
    obtain ⟨hw, halign⟩ := h
    rw [hw, Width.bytes] at hk
    exact regionOf_registers.mpr (by omega)
  | window b =>
    obtain ⟨hlo, -⟩ := regionOf_window.mp hr
    have hend := window_access_end hr (aligned_of_window h hr)
    exact regionOf_window.mpr (by omega)
  | reserved => simp [BusAccess.busError, hr] at h

/-- Settles O12: the access check is the spec's list, and nothing else ends in BUS_ERROR. -/
theorem busErrorsExactly : Obligations.BusErrorsExactly := fun s a =>
  ⟨(access_eq_busError_iff s a).trans (busError_iff_badAccess a),
    fun hgood _ hk => regionOf_lane ((busError_eq_false_iff a).mpr hgood) hk⟩

/-! ### Window reads (R64, R65) -/

/-- With nothing pending, an aligned window access has its effect. -/
theorem access_window {s : State} (a : BusAccess) {b : BufName} (hp : s.pending = false)
    (hb : regionOf a.offset = .window b) (halign : a.offset % a.width.bytes = 0) : s.access a = s.perform a := by
  have hbus : a.busError = false := by simp [BusAccess.busError, hb, halign]
  simp [State.access, hbus, hp]

theorem perform_readWindow {s : State} {o : BitVec 12} {w : Width} {b : BufName} (hb : regionOf o.toNat = .window b) :
    s.perform (.read o w) = .next { s.setRdata (s.readWindow o.toNat w.bytes) with draws := s.draws + 1 } := by
  simp [State.perform, hb]

theorem perform_writeWindow {s : State} {o : BitVec 12} {w : Width} {b : BufName} (v : Word)
    (hb : regionOf o.toNat = .window b) : s.perform (.write o w v) = .next (s.writeWindow b o.toNat w.bytes v) := by
  simp [State.perform, hb]

theorem lane_eq_getD (s : State) (o k : Nat) : s.lane o k = (s.byteAt (o + k)).getD (Config.freeByte s.draws k) := by
  rw [State.lane]
  cases s.byteAt (o + k) <;> rfl

/-- Up to four bytes fit the bus value, the first as its lowest digit in base 256 (R64). -/
theorem wordOfBytes_toNat {bs : List Byte} (h : bs.length ≤ 4) :
    (wordOfBytes bs).toNat = Nat.ofDigits 256 (bs.map BitVec.toNat) := by
  induction bs with
  | nil => rfl
  | cons b bs ih =>
    simp only [List.length_cons] at h
    have hlt : Nat.ofDigits 256 (bs.map BitVec.toNat) < 256 ^ 3 :=
      (Nat.ofDigits_lt_base_pow_length (by decide) (by simp; omega)).trans_le
        (Nat.pow_le_pow_right (by decide) (by simp; omega))
    have hb := b.isLt
    have hlow : (b.setWidth 32).toNat = b.toNat := by rw [BitVec.toNat_setWidth]; omega
    rw [wordOfBytes, BitVec.toNat_or, BitVec.toNat_shiftLeft, hlow, ih (by omega),
      Nat.mod_eq_of_lt (by rw [Nat.shiftLeft_eq]; omega), ← Nat.shiftLeft_add_eq_or_of_lt hb, Nat.shiftLeft_eq,
      List.map_cons, Nat.ofDigits_cons]
    omega

/-- The value of a window read, lane by lane. -/
theorem readWindow_toNat (s : State) (o : Nat) {n : Nat} (h : n ≤ 4) :
    (s.readWindow o n).toNat = ((List.range n).map (fun k => (s.lane o k).toNat * 2 ^ (8 * k))).sum := by
  rw [State.readWindow, wordOfBytes_toNat (by simpa using h), Nat.ofDigits_eq_sum_mapIdx]
  congr 1
  refine List.ext_getElem (by simp) fun k _ _ => ?_
  simp [pow_mul]

/-- Settles O20: the value is the sum of its lanes, and a read changes no buffer and no cell. -/
theorem windowReadsAreLittleEndianWithFreeLanes : Obligations.WindowReadsAreLittleEndianWithFreeLanes := by
  intro s o w b hp hb halign
  refine ⟨_, (access_window (.read o w) hp hb halign).trans (perform_readWindow hb), rfl, ?_, fun a => byteAt_congr rfl rfl a⟩
  simp only [State.setRdata_host, ← lane_eq_getD]
  exact readWindow_toNat s o.toNat (by cases w <;> decide)

/-! ### Window writes (R64, R66) -/

/-- TEXT, DATA and EC store the bytes of the bus value. -/
theorem writeWindow_of_stored {b : BufName} (hb : b ∈ [BufName.text, .data, .ec]) (s : State) (o n : Nat) (v : Word) :
    s.writeWindow b o n v = { s with mem := s.mem.setAll o (bytesOfWord v n) } := by
  cases b with
  | text | data | ec => rfl
  | gen | matrix => simp at hb

/-- GEN and MATRIX are written by commands only (R66). -/
theorem writeWindow_of_ignored {b : BufName} (hb : b ∈ [BufName.gen, .matrix]) (s : State) (o n : Nat) (v : Word) :
    s.writeWindow b o n v = s := by
  cases b with
  | gen | matrix => rfl
  | text | data | ec => simp at hb

theorem bytesOfWord_eq_map (v : Word) (n : Nat) :
    bytesOfWord v n = (List.range n).map (fun k => v.extractLsb' (8 * k) 8) := by
  refine List.ext_getElem? fun k => ?_
  by_cases hk : k < n
  · rw [bytesOfWord_getElem? v n k hk, List.getElem?_map, List.getElem?_range hk, Option.map_some,
      BitVec.setWidth_ushiftRight_eq_extractLsb]
  · rw [List.getElem?_eq_none (by rw [bytesOfWord_length]; omega), List.getElem?_eq_none (by simp; omega)]

/-- A row of bytes written inside the buffers shows at its offsets and nowhere else. -/
theorem storesAt_of_setAll {s t : State} {base : Nat} {vs : List Byte} (hmem : t.mem = s.mem.setAll base vs)
    (hmx : t.matrix = s.matrix) (hlo : 0x100 ≤ base) (hhi : base + vs.length ≤ 0x2C0) : storesAt s t base vs := by
  intro a
  split
  · rename_i ha
    have hbuf : isBufferOffset a = true := by
      simp only [isBufferOffset, Bool.and_eq_true, decide_eq_true_eq]
      omega
    rw [State.byteAt_buffer t hbuf, hmem, Memory.get?_setAll, if_pos ha]
  · exact byteAt_of_setAll hmem hmx ‹_›

/-- An aligned access of TEXT, DATA or EC lies inside the byte memory. -/
theorem stored_access_range {o : Nat} {w : Width} {b : BufName} (hb : b ∈ [BufName.text, .data, .ec])
    (hr : regionOf o = .window b) (halign : o % w.bytes = 0) : 0x100 ≤ o ∧ o + w.bytes ≤ 0x2C0 := by
  obtain ⟨hlo, -⟩ := regionOf_window.mp hr
  have hend := window_access_end hr halign
  obtain ⟨hbase, hsize⟩ : 0x100 ≤ b.windowBase ∧ b.windowBase + b.windowSize ≤ 0x2C0 := by
    simp only [List.mem_cons, List.not_mem_nil, or_false] at hb
    obtain rfl | rfl | rfl := hb <;> decide
  omega

/-- Settles O21: the stored bytes are those of the bus value; GEN and MATRIX take none. -/
theorem windowWritesStoreTheirBytes : Obligations.WindowWritesStoreTheirBytes := by
  intro s o w v b hp hr halign
  have haccess : s.access (.write o w v) = .next (s.writeWindow b o.toNat w.bytes v) :=
    (access_window (.write o w v) hp hr halign).trans (perform_writeWindow v hr)
  refine ⟨fun hb => ⟨_, haccess, ?_, ?_⟩, fun hb => ?_⟩
  · rw [writeWindow_of_stored hb]
  · obtain ⟨hlo, hhi⟩ := stored_access_range hb hr halign
    rw [writeWindow_of_stored hb, ← bytesOfWord_eq_map]
    exact storesAt_of_setAll rfl rfl hlo (by rwa [bytesOfWord_length])
  · rw [haccess, writeWindow_of_ignored hb]

/-! ### Reads have no side effects, writes are idempotent (R67) -/

theorem regionOf_of_regAt {o : Nat} {r : RegName} (h : regAt o = some r) : regionOf o = .registers :=
  regAt_eq_some h ▸ regionOf_registerOffset r

theorem perform_writeReg {s : State} {o : BitVec 12} {w : Width} {r : RegName} (v : Word) (hr : regAt o.toNat = some r) :
    s.perform (.write o w v) = .next (s.writeReg r v) := by
  simp [State.perform, regionOf_of_regAt hr, hr]

/-- Settles O22: a register read gives the host its value, a window read gives it a value and takes a draw. -/
theorem hostReadsHaveNoSideEffects : Obligations.HostReadsHaveNoSideEffects := by
  intro s t o w h
  obtain ⟨-, -, hperform⟩ := State.access_eq_next h
  obtain ⟨o', w', r, ha, hr, rfl⟩ | ⟨o', w', b, -, -, rfl⟩ | ⟨o', w', v, r, ha, -, -⟩ | ⟨o', w', v, b, ha, -, -⟩ :=
    State.perform_cases hperform
  · cases ha
    refine ⟨rfl, fun hwindow => ?_⟩
    have := regionOf_registers.mp (regionOf_of_regAt hr)
    omega
  · exact ⟨rfl, fun _ => rfl⟩
  · cases ha
  · cases ha

theorem mem_of_get? {m : Memory} {a : Nat} {v : Byte} (h : m.get? a = some v) : (a, v) ∈ m := by
  induction m with
  | nil => simp [Memory.get?] at h
  | cons p m ih =>
    simp only [Memory.get?] at h
    split at h
    · subst a
      cases h
      exact List.mem_cons_self
    · exact List.mem_cons_of_mem _ (ih h)

/-- Giving a byte the value it holds changes nothing, the offsets rising strictly. -/
theorem memory_set_eq_self {m : Memory} {a : Nat} {v : Byte} (hm : m.Pairwise (fun p q => p.1 < q.1)) (h : m.get? a = some v) :
    m.set a v = m := by
  induction m with
  | nil => simp [Memory.get?] at h
  | cons p m ih =>
    obtain ⟨b, w⟩ := p
    obtain ⟨hb, hm'⟩ := List.pairwise_cons.mp hm
    simp only [Memory.get?] at h
    simp only [Memory.set]
    by_cases hab : a = b
    · rw [if_pos hab, Option.some_inj] at h
      rw [if_neg (by omega), if_pos hab, hab, h]
    · rw [if_neg hab] at h
      have hlt := hb _ (mem_of_get? h)
      rw [if_neg (by simp only at hlt; omega), if_neg hab, ih hm' h]

/-- Writing a row of bytes that is there changes nothing. -/
theorem memory_setAll_eq_self {m : Memory} (hm : m.wf) {vs : List Byte} {a : Nat} (h : m.readAll a vs.length = some vs) :
    m.setAll a vs = m := by
  induction vs generalizing a with
  | nil => rfl
  | cons v vs ih =>
    obtain ⟨-, hget⟩ := Memory.readAll_eq_some.mp h
    have h0 : m.get? a = some v := by simpa using hget 0 (by simp)
    have hrest : m.readAll (a + 1) vs.length = some vs := Memory.readAll_eq_some.mpr ⟨rfl, fun k hk => by
      simpa [Nat.add_assoc, Nat.add_comm 1] using hget (k + 1) (by simpa using hk)⟩
    rw [Memory.setAll, memory_set_eq_self hm.1 h0, ih hrest]

theorem writeWindow_idempotent {s : State} (hm : s.mem.wf) {o : Nat} {w : Width} {b : BufName} (v : Word)
    (hr : regionOf o = .window b) (halign : o % w.bytes = 0) :
    (s.writeWindow b o w.bytes v).writeWindow b o w.bytes v = s.writeWindow b o w.bytes v := by
  by_cases hb : b ∈ [BufName.text, .data, .ec]
  · obtain ⟨hlo, hhi⟩ := stored_access_range hb hr halign
    have hwf : (s.mem.setAll o (bytesOfWord v w.bytes)).wf := Memory.wf_setAll hm hlo (by rwa [bytesOfWord_length])
    simp only [writeWindow_of_stored hb, memory_setAll_eq_self hwf (Memory.readAll_setAll s.mem o _)]
  · have hb' : b ∈ [BufName.gen, .matrix] := by
      cases b with
      | text | data | ec => simp at hb
      | gen | matrix => decide
    simp only [writeWindow_of_ignored hb']

theorem writeReg_idempotent {r : RegName} (hr : r ≠ .cmd) (s : State) (v : Word) :
    (s.writeReg r v).writeReg r v = s.writeReg r v := by
  cases r with
  | cmd => exact absurd rfl hr
  | ctrl =>
    simp only [State.writeReg]
    cases hv : v.getLsbD 1 with
    | true => simp [writeCtrl_of_srst hv, State.softReset, State.reset]
    | false => simp only [writeCtrl_of_not_srst hv]
  | status => simp [State.writeReg, State.writeStatus]
  | _ => rfl

/-- An access that has no further effect is allowed again, if it did not make a command pending. -/
theorem access_again {s t : State} {a : BusAccess} (h : s.access a = .next t)
    (hpend : t.pending = true → s.pending = true) (hperform : t.perform a = .next t) : t.access a = .next t := by
  obtain ⟨hbus, hallowed, -⟩ := State.access_eq_next h
  cases hp : t.pending with
  | true => simp [State.access, hbus, hallowed (hpend hp), hperform]
  | false => simp [State.access, hbus, hp, hperform]

theorem pending_of_writeReg {r : RegName} (hr : r ≠ .cmd) {s : State} {v : Word} (h : (s.writeReg r v).pending = true) :
    s.pending = true := by
  cases r with
  | cmd => exact absurd rfl hr
  | ctrl =>
    simp only [State.writeReg] at h
    cases hv : v.getLsbD 1 with
    | true => simp [writeCtrl_of_srst hv, State.reset] at h
    | false => simpa only [writeCtrl_of_not_srst hv] using h
  | _ => exact h

theorem writeWindow_pending (s : State) (b : BufName) (o n : Nat) (v : Word) :
    (s.writeWindow b o n v).pending = s.pending := by
  cases b <;> rfl

/-- Settles O23: a register write but CMD's and a window write are idempotent, and the second is as allowed as the first. -/
theorem hostWritesAreIdempotentExceptCmd : Obligations.HostWritesAreIdempotentExceptCmd := by
  intro s t o w v hm hne h
  obtain ⟨hbus, -, hperform⟩ := State.access_eq_next h
  obtain ⟨o', w', r, ha, -, -⟩ | ⟨o', w', b, ha, -, -⟩ | ⟨o', w', v', r, ha, hr, rfl⟩ | ⟨o', w', v', b, ha, hr, rfl⟩ :=
    State.perform_cases hperform
  · cases ha
  · cases ha
  · cases ha
    have hcmd : r ≠ .cmd := by
      rintro rfl
      exact hne (BitVec.eq_of_toNat_eq (regAt_eq_some hr).symm)
    exact access_again h (pending_of_writeReg hcmd) ((perform_writeReg v hr).trans (by rw [writeReg_idempotent hcmd]))
  · cases ha
    refine access_again h (by simp [writeWindow_pending]) ((perform_writeWindow v hr).trans ?_)
    exact congrArg _ (writeWindow_idempotent hm v hr (aligned_of_window hbus hr))

end Sys2Proof.Proofs
end

section
/-! A step as a command step or a host turn, and what a host turn cannot change while a command is pending (R69, R70,
R74, R313). -/

namespace Sys2Proof.Proofs

open Sys2Proof Sys2Proof.Machine Sys2Proof.Spec

/-! ### The pending command is kept -/

/-- Only IRQEN, DONE, ERR, OVR, the host agent and the wait may differ. -/
def KeepsPendingCommand (s t : State) : Prop :=
  t = { s with irqen := t.irqen, done := t.done, err := t.err, ovr := t.ovr, host := t.host, delay := t.delay }

/-- A write of STATUS, CTRL or CMD that leaves the command pending keeps it (R313). -/
theorem writeReg_keepsPendingCommand {s : State} {r : RegName} {v : Word} (hr : r = .status ∨ r = .ctrl ∨ r = .cmd)
    (hp : s.pending = true) (ht : (s.writeReg r v).pending = true) : KeepsPendingCommand s (s.writeReg r v) := by
  obtain rfl | rfl | rfl := hr
  · rfl
  · simp only [State.writeReg] at ht ⊢
    cases hv : v.getLsbD 1 with
    | true => simp [writeCtrl_of_srst hv, State.reset] at ht
    | false =>
      rw [writeCtrl_of_not_srst hv]
      rfl
  · rw [State.writeReg, writeCmd_of_pending hp]
    rfl

/-- No window access is allowed while a command is pending (R313). -/
theorem allowedWhilePending_register {a : BusAccess} (h : a.allowedWhilePending = true) : regionOf a.offset = .registers := by
  cases a with
  | read o w =>
    simp only [BusAccess.allowedWhilePending, beq_iff_eq] at h
    exact regionOf_of_regAt h
  | write o w v =>
    simp only [BusAccess.allowedWhilePending, Bool.or_eq_true, beq_iff_eq] at h
    obtain (h | h) | h := h <;> exact regionOf_of_regAt h

/-- An access made while a command stays pending changes only the host's side (R313). -/
theorem access_keepsPendingCommand {s t : State} {a : BusAccess} (hp : s.pending = true) (h : s.access a = .next t)
    (ht : t.pending = true) : KeepsPendingCommand s t := by
  obtain ⟨-, hallowed, hperform⟩ := State.access_eq_next h
  have hregion := allowedWhilePending_register (hallowed hp)
  obtain ⟨o, w, r, -, -, rfl⟩ | ⟨o, w, b, rfl, hr, -⟩ | ⟨o, w, v, r, rfl, hr, rfl⟩ | ⟨o, w, v, b, rfl, hr, -⟩ :=
    State.perform_cases hperform
  · rfl
  · simp [BusAccess.offset, hr] at hregion
  · have hreg : r = .status ∨ r = .ctrl ∨ r = .cmd := by
      simpa [BusAccess.allowedWhilePending, hr, or_assoc] using hallowed hp
    exact writeReg_keepsPendingCommand hreg hp ht
  · simp [BusAccess.offset, hr] at hregion

theorem hostTurn_keepsPendingCommand {s t : State} (hp : s.pending = true) (h : s.hostTurn = .next t)
    (ht : t.pending = true) : KeepsPendingCommand s t := by
  obtain rfl | ⟨a, ha⟩ | ⟨n, rfl⟩ := State.hostTurn_cases h
  · rfl
  · exact access_keepsPendingCommand (s := s.setPc (s.host.pc + 1)) hp ha ht
  · rfl

/-- The command step leaves nothing pending (R302, R303). -/
theorem coreStep_pending {s t : State} (h : coreStep s = .next t) : t.pending = false := by
  simp only [coreStep] at h
  split at h
  · rw [exec_eq_runStages] at h
    exact (runStages_ends h).1
  · cases h
    rfl

/-- Settles O24: a step that leaves the command pending is a host turn. -/
theorem pendingCommandKeepsItsOperands : Obligations.PendingCommandKeepsItsOperands := by
  intro s t hp h ht
  rw [step, if_pos hp] at h
  cases hd : s.delay with
  | zero =>
    rw [hd] at h
    simp [coreStep_pending h] at ht
  | succ n =>
    rw [hd] at h
    exact hostTurn_keepsPendingCommand (s := { s with delay := n }) hp h ht

/-! ### What a step runs -/

/-- Settles O6: the host's turn by its statement, the step by the pending flag and the wait. -/
theorem stepRunsTheDecodedCommand : Obligations.StepRunsTheDecodedCommand := by
  intro s
  refine ⟨fun a ha => ?_, fun n hn => ?_, fun n hn => ?_, fun hend => ?_, fun i hp hd hi => ?_, fun n hp hd => ?_,
    fun hp => ?_⟩
  · simp only [State.hostTurn, ha]
    rfl
  · simp only [State.hostTurn, hn]
    split <;> rfl
  · simp only [State.hostTurn, hn]
    split <;> rfl
  · simp only [State.hostTurn, List.getElem?_eq_none hend]
  · simp [step, hp, hd, coreStep, hi]
  · simp [step, hp, hd]
  · simp [step, hp]

end Sys2Proof.Proofs
end

section
/-! Decoding against the opcode map: the fields of a word and of a row's mask, which words a row selects, and that no
word selects two rows; then the encoding obligations (R90 to R101). -/

namespace Sys2Proof.Proofs

open Sys2Proof Sys2Proof.Machine Sys2Proof.Spec

/-! ### A word and its fields (R90) -/

/-- Cutting a word into its fields loses no bit. -/
theorem word_fieldsOf (w : Word) : (fieldsOf w).word = w := by
  have hx : BitVec.ofBool (w.getLsbD 11) = w.extractLsb' 11 1 := by
    ext i hi
    simp [show i = 0 by omega]
  simp only [CommandFields.word, fieldsOf, hx]
  rw [BitVec.extractLsb'_append_extractLsb'_eq_extractLsb' (rfl : 12 = 11 + 1),
    BitVec.extractLsb'_append_extractLsb'_eq_extractLsb' (rfl : 11 = 8 + 3),
    BitVec.extractLsb'_append_extractLsb'_eq_extractLsb' (rfl : 8 = 0 + 8)]
  exact BitVec.extractLsb'_eq_self

theorem fieldsOf_injective : Function.Injective fieldsOf := Function.LeftInverse.injective word_fieldsOf

@[simp] theorem fieldsOf_encode (i : Instr) : fieldsOf (encode i) = i.fields := fieldsOf_word i.fields

theorem eq_encode_iff {w : Word} {i : Instr} : w = encode i ↔ fieldsOf w = i.fields := by
  rw [← fieldsOf_injective.eq_iff, fieldsOf_encode]

theorem fieldsOf_and (w v : Word) :
    fieldsOf (w &&& v) = ⟨(fieldsOf w).opcode &&& (fieldsOf v).opcode, (fieldsOf w).mask &&& (fieldsOf v).mask,
      (fieldsOf w).x && (fieldsOf v).x, (fieldsOf w).zero &&& (fieldsOf v).zero⟩ := by
  simp [fieldsOf, BitVec.extractLsb'_and]

/-! ### The rows of the opcode map (R94) -/

theorem selects_iff_fields {r : OpcodeRow} {w : Word} :
    r.selects w = true ↔ fieldsOf (w &&& r.maskValue) = fieldsOf r.matchValue := by
  rw [OpcodeRow.selects, beq_iff_eq, fieldsOf_injective.eq_iff]

/-! The three masks of R94: every bit, every bit but X, and every bit but MASK. -/

theorem and_wholeWord (w : Word) : w &&& 0xFFFFFFFF#32 = w := BitVec.and_allOnes

theorem fieldsOf_and_butX (w : Word) : fieldsOf (w &&& 0xFFFFF7FF#32) = { fieldsOf w with x := false } := by
  rw [fieldsOf_and, show fieldsOf 0xFFFFF7FF#32 = ⟨BitVec.allOnes 8, BitVec.allOnes 3, false, BitVec.allOnes 20⟩ by decide]
  simp only [BitVec.and_allOnes, Bool.and_false]

theorem fieldsOf_and_butMask (w : Word) : fieldsOf (w &&& 0xFFFFF8FF#32) = { fieldsOf w with mask := 0#3 } := by
  rw [fieldsOf_and, show fieldsOf 0xFFFFF8FF#32 = ⟨BitVec.allOnes 8, 0#3, true, BitVec.allOnes 20⟩ by decide]
  simp only [BitVec.and_allOnes, BitVec.and_zero, Bool.and_true]

/-- What a row of the map selects: the words of its own command. -/
def SelectsItsWords (r : OpcodeRow) : Prop := ∀ w : Word, r.selects w = true ↔ w = encode (r.command w)

theorem selectsItsWords_fixed (i : Instr) : SelectsItsWords ⟨encode i, 0xFFFFFFFF#32, fun _ => i⟩ := fun w => by
  rw [OpcodeRow.selects, and_wholeWord, beq_iff_eq]

/-- A command whose only operand is X. -/
theorem selectsItsWords_x {c : Bool → Instr} {op : BitVec 8} (hc : ∀ x, (c x).fields = ⟨op, 0#3, x, 0#20⟩) :
    SelectsItsWords ⟨encode (c false), 0xFFFFF7FF#32, fun w => c (fieldsOf w).x⟩ := fun w => by
  rw [selects_iff_fields, eq_encode_iff, fieldsOf_and_butX, fieldsOf_encode, hc, hc]
  cases fieldsOf w
  simp

/-- A command whose only operand is MASK. -/
theorem selectsItsWords_mask {c : BitVec 3 → Instr} {op : BitVec 8} (hc : ∀ m, (c m).fields = ⟨op, m, false, 0#20⟩) :
    SelectsItsWords ⟨encode (c 0#3), 0xFFFFF8FF#32, fun w => c (fieldsOf w).mask⟩ := fun w => by
  rw [selects_iff_fields, eq_encode_iff, fieldsOf_and_butMask, fieldsOf_encode, hc, hc]
  cases fieldsOf w
  simp

theorem opcodeMap_selectsItsWords : ∀ r ∈ opcodeMap, SelectsItsWords r := by
  simp only [opcodeMap, List.cons_append, List.nil_append, List.forall_mem_cons]
  exact ⟨selectsItsWords_fixed .nop, selectsItsWords_fixed .gfMul, selectsItsWords_fixed .gfExp,
    selectsItsWords_fixed .gfLog, selectsItsWords_x (c := .rsGen) fun _ => rfl,
    selectsItsWords_x (c := .rsEnc) fun _ => rfl, selectsItsWords_fixed .bsBuild, selectsItsWords_fixed .mxBuild,
    selectsItsWords_fixed .mxPlace, selectsItsWords_mask (c := .maskScore) fun _ => rfl,
    selectsItsWords_fixed .maskSelect, selectsItsWords_fixed .tblCap, selectsItsWords_fixed .tblGeom,
    selectsItsWords_mask (c := .tblFmt) fun _ => rfl, selectsItsWords_fixed .encode, by simp⟩

/-- Every command is read from its word by a row. -/
theorem exists_row_of_instr (i : Instr) : ∃ r ∈ opcodeMap, r.command (encode i) = i := by
  cases i <;> simp [opcodeMap, Instr.fields]

/-- Each row fixes OPCODE, and no two rows fix the same. -/
theorem opcodeMap_opcodes_nodup : (opcodeMap.map fun r => (fieldsOf r.matchValue).opcode).Nodup := by decide

theorem opcodeMap_maskValue_opcode : ∀ r ∈ opcodeMap, (fieldsOf r.maskValue).opcode = BitVec.allOnes 8 := by
  simp only [opcodeMap, List.cons_append, List.nil_append, List.forall_mem_cons]
  decide

/-- A word has the opcode of a row that it selects. -/
theorem opcode_of_selects {r : OpcodeRow} (hr : r ∈ opcodeMap) {w : Word} (h : r.selects w = true) :
    (fieldsOf w).opcode = (fieldsOf r.matchValue).opcode := by
  rw [← selects_iff_fields.mp h, fieldsOf_and, opcodeMap_maskValue_opcode r hr, BitVec.and_allOnes]

/-- Settles O3: a word that selects a row has the row's opcode, and the 15 opcodes differ. -/
theorem opcodeRowsDoNotOverlap : Obligations.OpcodeRowsDoNotOverlap := by
  refine List.Pairwise.imp_of_mem (fun hr hr' hne w ⟨h, h'⟩ => hne ?_) (List.pairwise_map.mp opcodeMap_opcodes_nodup)
  rw [← opcode_of_selects hr h, ← opcode_of_selects hr' h']

/-! ### Decoding (R95) -/

theorem exists_row_of_decodeIn {rows : List OpcodeRow} {w : Word} {i : Instr} (h : decodeIn rows w = some i) :
    ∃ r ∈ rows, r.selects w = true ∧ r.command w = i := by
  induction rows with
  | nil => cases h
  | cons r rest ih =>
    rw [decodeIn] at h
    split at h
    next hsel => exact ⟨r, List.mem_cons_self, hsel, Option.some.inj h⟩
    next =>
      obtain ⟨r', hr', hsel⟩ := ih h
      exact ⟨r', List.mem_cons_of_mem r hr', hsel⟩

/-- In a map whose rows do not overlap, the row that a word selects is the one that decodes it. -/
theorem decodeIn_of_selects {rows : List OpcodeRow} {w : Word} {r : OpcodeRow}
    (hdisjoint : rows.Pairwise fun r r' => ∀ w : Word, ¬(r.selects w = true ∧ r'.selects w = true))
    (hr : r ∈ rows) (h : r.selects w = true) : decodeIn rows w = some (r.command w) := by
  induction rows with
  | nil => cases hr
  | cons r' rest ih =>
    obtain ⟨hhead, htail⟩ := List.pairwise_cons.mp hdisjoint
    rw [decodeIn]
    obtain rfl | hr := List.mem_cons.mp hr
    · rw [if_pos h]
    · rw [if_neg fun h' => hhead r hr w ⟨h', h⟩, ih htail hr]

theorem decode_of_selects {w : Word} {r : OpcodeRow} (hr : r ∈ opcodeMap) (h : r.selects w = true) :
    decode w = some (r.command w) := decodeIn_of_selects opcodeRowsDoNotOverlap hr h

/-- Settles O2: the row that decodes a word selects only the words of its command, and every command has a row. -/
theorem decodeInvertsEncodeExactly : Obligations.DecodeInvertsEncodeExactly := by
  intro w i
  constructor
  · intro h
    obtain ⟨r, hr, hsel, rfl⟩ := exists_row_of_decodeIn h
    exact (opcodeMap_selectsItsWords r hr w).mp hsel
  · rintro rfl
    obtain ⟨r, hr, hcommand⟩ := exists_row_of_instr i
    have hsel : r.selects (encode i) = true := (opcodeMap_selectsItsWords r hr _).mpr (by rw [hcommand])
    rw [decode_of_selects hr hsel, hcommand]

theorem decode_encode (i : Instr) : decode (encode i) = some i := (decodeInvertsEncodeExactly _ _).mpr rfl

theorem decode_eq_none {w : Word} (h : ∀ i : Instr, fieldsOf w ≠ i.fields) : decode w = none :=
  Option.eq_none_iff_forall_ne_some.mpr fun i hi => h i (eq_encode_iff.mp ((decodeInvertsEncodeExactly w i).mp hi))

theorem raiseIllegal_eq_failed (s : State) : s.raiseIllegal = failed s 1#4 (s.cmdl.setWidth 8) := by
  simp only [State.raiseIllegal, State.raise, failed, ErrCode.code,
    BitVec.setWidth_eq_extractLsb' (show 8 ≤ 32 by decide)]

/-- Settles O4: the row that a word selects decodes it; a pending word that selects none makes the step raise. -/
theorem unmatchedWordsAreIllegalCommands : Obligations.UnmatchedWordsAreIllegalCommands := by
  refine ⟨fun w r hr h => decode_of_selects hr h, fun s hp hd hnone => ?_⟩
  have hdecode : decode s.cmdl = none := by
    refine Option.eq_none_iff_forall_ne_some.mpr fun i hi => ?_
    obtain ⟨r, hr, hsel, -⟩ := exists_row_of_decodeIn hi
    exact hnone r hr (beq_iff_eq.mp hsel)
  simp [step, hp, hd, coreStep, hdecode, raiseIllegal_eq_failed]

/-! ### The assembler's command statements (R99) -/

/-- The fields of a command statement's word, for an absent mask operand as for `m=0`. -/
def statementFields (mn : Mnemonic) (m : Option Nat) (x : Bool) : CommandFields :=
  ⟨BitVec.ofNat 8 mn.opcode, BitVec.ofNat 3 (m.getD 0), x, 0#20⟩

/-- The command of a mnemonic; an operand that it does not use is left out. -/
def instrOf (mask : BitVec 3) (x : Bool) : Mnemonic → Instr
  | .NOP => .nop
  | .GF_MUL => .gfMul
  | .GF_EXP => .gfExp
  | .GF_LOG => .gfLog
  | .RS_GEN => .rsGen x
  | .RS_ENC => .rsEnc x
  | .BS_BUILD => .bsBuild
  | .MX_BUILD => .mxBuild
  | .MX_PLACE => .mxPlace
  | .MASK_SCORE => .maskScore mask
  | .MASK_SELECT => .maskSelect
  | .TBL_CAP => .tblCap
  | .TBL_GEOM => .tblGeom
  | .TBL_FMT => .tblFmt mask
  | .ENCODE => .encode

/-- The word as the sum of its fields, each at its place. -/
theorem word_toNat (f : CommandFields) :
    f.word.toNat = f.opcode.toNat + f.mask.toNat * 256 + f.x.toNat * 2048 + f.zero.toNat * 4096 := by
  obtain ⟨op, m, x, z⟩ := f
  simp only [CommandFields.word, BitVec.toNat_cast, BitVec.toNat_append]
  rw [← Nat.shiftLeft_add_eq_or_of_lt op.isLt, ← Nat.shiftLeft_add_eq_or_of_lt m.isLt,
    ← Nat.shiftLeft_add_eq_or_of_lt (BitVec.ofBool x).isLt, BitVec.toNat_ofBool]
  omega

theorem opcode_lt (mn : Mnemonic) : mn.opcode < 15 := by cases mn <;> decide

/-- R99's sum is the word of the statement's fields, for a mask operand that fits MASK. -/
theorem commandWord_eq_word (mn : Mnemonic) {m : Option Nat} (hm : m.getD 0 < 8) (x : Bool) :
    commandWord mn m x = (statementFields mn m x).word := by
  have hop := opcode_lt mn
  refine BitVec.eq_of_toNat_eq ?_
  rw [word_toNat]
  cases x <;> simp [commandWord, statementFields] <;> omega

theorem fieldsOf_commandWord (mn : Mnemonic) {m : Option Nat} (hm : m.getD 0 < 8) (x : Bool) :
    fieldsOf (commandWord mn m x) = statementFields mn m x := by
  rw [commandWord_eq_word mn hm, fieldsOf_word]

/-- X passes the check of R90 exactly when `x` passes the assembler's. -/
theorem statementFields_xOk (mn : Mnemonic) (m : Option Nat) (x : Bool) :
    (statementFields mn m x).xOk = mn.xOperandOk x := by
  cases mn <;> cases x <;> rfl

theorem statementFields_usesMask (mn : Mnemonic) (m : Option Nat) (x : Bool) :
    (statementFields mn m x).usesMask = (mn == .MASK_SCORE || mn == .TBL_FMT) := by
  cases mn <;> rfl

/-- MASK passes the check of R90 when `m=` passes the assembler's. -/
theorem statementFields_maskOk {mn : Mnemonic} {m : Option Nat} (h : mn.maskOperandOk m = true) (x : Bool) :
    (statementFields mn m x).maskOk = true := by
  rw [CommandFields.maskOk, statementFields_usesMask]
  cases m with
  | none => simp [statementFields]
  | some k =>
    simp only [Mnemonic.maskOperandOk, Bool.and_eq_true] at h
    rw [h.1, Bool.true_or]

/-- A mask operand of 1..7 that the assembler refuses is a MASK that is not 0 where none is used. -/
theorem maskOperandOk_of_maskOk {mn : Mnemonic} {m : Option Nat} {x : Bool} (hm : ∀ k, m = some k → 1 ≤ k ∧ k < 8)
    (h : (statementFields mn m x).maskOk = true) : mn.maskOperandOk m = true := by
  rw [CommandFields.maskOk, statementFields_usesMask] at h
  cases m with
  | none => rfl
  | some k =>
    obtain ⟨hpos, hlt⟩ := hm k rfl
    have hne : BitVec.ofNat 3 k ≠ 0#3 := fun h0 => by
      have := congrArg BitVec.toNat h0
      simp only [BitVec.toNat_ofNat] at this
      omega
    simpa [statementFields, hne, Mnemonic.maskOperandOk, hlt] using h

/-- A statement whose operands are legal has the fields of its mnemonic's command. -/
theorem instrOf_fields {mn : Mnemonic} {m : Option Nat} {x : Bool} (h : (AsmStmt.command mn m x).wellFormed = true) :
    (instrOf (BitVec.ofNat 3 (m.getD 0)) x mn).fields = statementFields mn m x := by
  obtain ⟨hm, hx⟩ := Bool.and_eq_true_iff.mp h
  have hmask := statementFields_maskOk hm x
  rw [CommandFields.maskOk, statementFields_usesMask] at hmask
  cases mn <;> simp_all [instrOf, Instr.fields, statementFields, Mnemonic.opcode, Mnemonic.xOperandOk]

/-- The fields of a command pass the checks of R90. -/
theorem wellFormed_of_instr (i : Instr) : i.fields.wellFormed = true := by
  cases i with
  | rsGen x => exact (Laws.EncodedFields.rsGen x).2
  | rsEnc x => exact (Laws.EncodedFields.rsEnc x).2
  | maskScore m => exact (Laws.EncodedFields.maskScore m).2
  | tblFmt m => exact (Laws.EncodedFields.tblFmt m).2
  | _ => rfl

theorem command_wellFormed_iff (mn : Mnemonic) (m : Option Nat) (x : Bool) :
    (AsmStmt.command mn m x).wellFormed = true ↔
      (m = none ∨ (mn = .MASK_SCORE ∨ mn = .TBL_FMT) ∧ ∃ k, m = some k ∧ k < 8) ∧
        (x = false ∨ mn = .RS_GEN ∨ mn = .RS_ENC) := by
  cases m <;> simp [AsmStmt.wellFormed, Mnemonic.maskOperandOk, Mnemonic.xOperandOk, or_assoc]

theorem maskOperand_lt {mn : Mnemonic} {m : Option Nat} {x : Bool} (h : (AsmStmt.command mn m x).wellFormed = true) :
    m.getD 0 < 8 := by
  obtain ⟨rfl | ⟨-, k, rfl, hk⟩, -⟩ := (command_wellFormed_iff mn m x).mp h
  · decide
  · exact hk

/-- A legal command statement is assembled to one CMD write. -/
theorem assemble_command {mn : Mnemonic} {m : Option Nat} {x : Bool} (h : (AsmStmt.command mn m x).wellFormed = true) :
    assemble [.command mn m x] = .ok [.access (writeAt .cmd (commandWord mn m x))] := by
  rw [assemble, assembleFrom, if_pos h]
  rfl

theorem assemble_refuses {st : AsmStmt} (h : ¬st.wellFormed = true) (rest : List AsmStmt) :
    assemble (st :: rest) = .error (.illFormed st) := by
  rw [assemble, assembleFrom, if_neg h]

/-- The word of a legal statement decodes to its mnemonic's command. -/
theorem decode_commandWord {mn : Mnemonic} {m : Option Nat} {x : Bool} (h : (AsmStmt.command mn m x).wellFormed = true) :
    decode (commandWord mn m x) = some (instrOf (BitVec.ofNat 3 (m.getD 0)) x mn) := by
  rw [decodeInvertsEncodeExactly, eq_encode_iff, fieldsOf_commandWord mn (maskOperand_lt h), instrOf_fields h]

/-- The word of an illegal statement is illegal, when its mask operand is absent or 1..7. -/
theorem decode_commandWord_eq_none {mn : Mnemonic} {m : Option Nat} {x : Bool}
    (h : ¬(AsmStmt.command mn m x).wellFormed = true) (hm : ∀ k, m = some k → 1 ≤ k ∧ k < 8) :
    decode (commandWord mn m x) = none := by
  have hlt : m.getD 0 < 8 := by
    cases m with
    | none => decide
    | some k => exact (hm k rfl).2
  refine decode_eq_none fun i hi => h ?_
  rw [fieldsOf_commandWord mn hlt] at hi
  have hwf := wellFormed_of_instr i
  rw [← hi] at hwf
  simp only [CommandFields.wellFormed, Bool.and_eq_true] at hwf
  obtain ⟨⟨⟨-, hmask⟩, hx⟩, -⟩ := hwf
  exact Bool.and_eq_true_iff.mpr ⟨maskOperandOk_of_maskOk hm hmask, statementFields_xOk mn m x ▸ hx⟩

/-- Settles O5: the statement's word has the statement's fields, which pass the checks of R90 when its operands are
legal, and otherwise only if `m=0` hides the operand. -/
theorem assemblerWordsDecodeExactlyWhenLegal : Obligations.AssemblerWordsDecodeExactlyWhenLegal := by
  intro mn m x legal
  have hlegal : (AsmStmt.command mn m x).wellFormed = true ↔ legal := command_wellFormed_iff mn m x
  rw [← hlegal]
  refine ⟨fun h => ⟨assemble_command h, _, decode_commandWord h, ?_⟩, fun h => assemble_refuses h [],
    decode_commandWord_eq_none, rfl⟩
  rw [instrOf_fields h]
  have hop := opcode_lt mn
  have hmask := maskOperand_lt h
  exact ⟨Nat.mod_eq_of_lt (by omega), Nat.mod_eq_of_lt hmask, rfl⟩

/-! ### The examples of the spec (R101) -/

/-- Settles O1: a legal word is its command's, and it and the sum of R99 are evaluated; the illegal words select no row. -/
theorem encodingExamplesOfTheSpec : Obligations.EncodingExamplesOfTheSpec :=
  ⟨decode_encode .nop, decode_encode .gfMul, decode_encode (.rsEnc true), decode_encode (.rsGen false),
    decode_encode (.maskScore 3#3), decode_encode (.tblFmt 7#3), decode_encode .encode,
    by decide, by decide, by decide, by decide, rfl, rfl, rfl, rfl, rfl, rfl, rfl, rfl⟩

end Sys2Proof.Proofs
end

section
/-! Galois field arithmetic (R120 to R125). Doubling is linear for XOR, and the product by α^k is doubling k times: the
field laws follow from that, and so does the agreement with the reduced carry-less product. -/

namespace Sys2Proof.Proofs

open Sys2Proof Sys2Proof.Machine Sys2Proof.Spec

/-! ### Maps of bit vectors that are linear for XOR -/

/-- `f` maps an XOR to the XOR of the images. -/
def XorLinear {m n : Nat} (f : BitVec m → BitVec n) : Prop := ∀ x y, f (x ^^^ y) = f x ^^^ f y

section
variable {l m n : Nat}

theorem XorLinear.map_zero {f : BitVec m → BitVec n} (h : XorLinear f) : f 0#m = 0#n := by
  have h0 := h 0#m 0#m
  rwa [BitVec.xor_self, BitVec.xor_self] at h0

theorem XorLinear.comp {f : BitVec m → BitVec n} {g : BitVec l → BitVec m} (hf : XorLinear f) (hg : XorLinear g) :
    XorLinear (f ∘ g) := fun x y => by simp only [Function.comp_apply, hg x y, hf (g x) (g y)]

theorem XorLinear.iterate {f : BitVec n → BitVec n} (h : XorLinear f) (k : Nat) : XorLinear f^[k] := by
  induction k with
  | zero => exact fun _ _ => rfl
  | succ k ih => exact ih.comp h

theorem xorLinear_setWidth : XorLinear (BitVec.setWidth n : BitVec m → BitVec n) := fun _ _ => BitVec.setWidth_xor

theorem xorLinear_shiftLeft (i : Nat) : XorLinear (fun x : BitVec n => x <<< i) := fun x y =>
  BitVec.shiftLeft_xor_distrib x y i

/-- One step of a reduction: the polynomial `c` is added when bit `j` is 1. -/
theorem xorLinear_reduceBit (j : Nat) (c : BitVec n) : XorLinear (fun x => if x.getLsbD j then x ^^^ c else x) := by
  intro x y
  simp only [BitVec.getLsbD_xor]
  cases x.getLsbD j <;> cases y.getLsbD j
  case true.true =>
    have cancel : x ^^^ c ^^^ (y ^^^ c) = x ^^^ y := by
      rw [BitVec.xor_comm y c, ← BitVec.xor_assoc, BitVec.xor_assoc x, BitVec.xor_self, BitVec.xor_zero]
    simpa using cancel.symm
  case true.false => simp only [Bool.xor_false, if_true, Bool.false_eq_true, if_false]; ac_rfl
  case false.true => simp only [Bool.false_xor, if_true, Bool.false_eq_true, if_false]; ac_rfl
  case false.false => rfl

theorem XorLinear.foldl {f : Nat → BitVec n → BitVec n} (h : ∀ k, XorLinear (f k)) (ks : List Nat) :
    XorLinear (fun x => ks.foldl (fun q k => f k q) x) := by
  induction ks with
  | nil => exact fun _ _ => rfl
  | cons k ks ih => exact ih.comp (h k)

/-- The XOR of `g i` over the bits i of `b` that are 1. -/
def bitSum (b : Byte) (g : Nat → BitVec n) : BitVec n :=
  (List.range 8).foldl (fun p i => if b.getLsbD i then p ^^^ g i else p) 0#n

theorem XorLinear.map_bitSum {f : BitVec m → BitVec n} (h : XorLinear f) (b : Byte) (g : Nat → BitVec m) :
    f (bitSum b g) = bitSum b (fun i => f (g i)) := by
  have hom := List.foldl_hom f (g₁ := fun p i => if b.getLsbD i then p ^^^ g i else p)
    (g₂ := fun p i => if b.getLsbD i then p ^^^ f (g i) else p) (l := List.range 8) (init := 0#m)
    fun p i => by split <;> simp [h p (g i)]
  rw [bitSum, bitSum, ← hom, h.map_zero]

theorem bitSum_congr {b : Byte} {g g' : Nat → BitVec n} (h : ∀ i, i < 8 → g i = g' i) : bitSum b g = bitSum b g' := by
  refine List.foldl_ext _ _ _ fun p i hi => ?_
  rw [h i (List.mem_range.mp hi)]

end

/-- A byte is the sum of its bits. -/
theorem bitSum_oneBits (b : Byte) : bitSum b (fun i => 1#8 <<< i) = b := by
  revert b
  decide +kernel

/-! ### Doubling and the powers of α -/

/-- The product by α: a shift with a 9-bit intermediate, reduced by 0x11D (R120). -/
def double (v : Byte) : Byte :=
  let t := v.setWidth 9 <<< 1
  (if t.getLsbD 8 then t ^^^ 0x11D#9 else t).setWidth 8

theorem xorLinear_double : XorLinear double :=
  (xorLinear_setWidth.comp (xorLinear_reduceBit 8 0x11D#9)).comp ((xorLinear_shiftLeft 1).comp xorLinear_setWidth)

theorem alphaPow_succ (i : Nat) : alphaPow (i + 1) = double (alphaPow i) := rfl

theorem alphaPow_add (m k : Nat) : alphaPow (m + k) = double^[k] (alphaPow m) := by
  induction k with
  | zero => rfl
  | succ k ih => rw [← Nat.add_assoc, alphaPow_succ, ih, Function.iterate_succ_apply']

/-! ### The ROMs (R120) -/

theorem gfExp_succ : ∀ i, i < 255 → gfExp (BitVec.ofNat 8 (i + 1)) = double (gfExp (BitVec.ofNat 8 i)) := by
  decide +kernel

/-- EXP[i] is α^i: each entry is the double of the entry before it. -/
theorem gfExp_ofNat {i : Nat} (h : i < 256) : gfExp (BitVec.ofNat 8 i) = alphaPow i := by
  induction i with
  | zero => decide +kernel
  | succ i ih => rw [gfExp_succ i (by omega), ih (by omega), alphaPow_succ]

theorem gfExp_eq_alphaPow (p : Byte) : gfExp p = alphaPow p.toNat := by
  rw [← gfExp_ofNat p.isLt, BitVec.ofNat_toNat, BitVec.setWidth_eq]

/-- The LOG ROM's entry of each EXP ROM's entry is its index, but for EXP[255] = EXP[0]. -/
theorem gfLog?_gfExp : ∀ p : Byte, gfLog? (gfExp p) = some (BitVec.ofNat 8 (p.toNat % 255)) := by
  decide +kernel

/-- The LOG ROM's entry of an element is its exponent. -/
theorem gfExp_romLog : ∀ v : Byte, v ≠ 0#8 → gfExp (romByte logRows v) = v := by
  decide +kernel

@[simp] theorem gfLog?_zero : gfLog? 0#8 = none := rfl

theorem gfLog?_eq_none {v : Byte} : gfLog? v = none ↔ v = 0#8 := by simp [gfLog?]

/-- EXP undoes LOG. -/
theorem gfExp_of_gfLog? {v l : Byte} (h : gfLog? v = some l) : gfExp l = v := by
  have hv : v ≠ 0#8 := by
    rintro rfl
    cases h
  rw [gfLog?, if_neg hv] at h
  obtain rfl := Option.some.inj h
  exact gfExp_romLog v hv

/-- A logarithm is an exponent below 255 that gives the element. -/
theorem gfLog?_eq_some {v l : Byte} (h : gfLog? v = some l) : l.toNat < 255 ∧ alphaPow l.toNat = v := by
  have hexp := gfExp_of_gfLog? h
  have hmod := gfLog?_gfExp l
  rw [hexp, h] at hmod
  refine ⟨?_, by rw [← gfExp_eq_alphaPow, hexp]⟩
  rw [Option.some.inj hmod, BitVec.toNat_ofNat]
  omega

theorem exists_gfLog? {v : Byte} (h : v ≠ 0#8) : ∃ l, gfLog? v = some l :=
  Option.ne_none_iff_exists'.mp (mt gfLog?_eq_none.mp h)

/-- Every element but 0 is a power of α. -/
theorem exists_alphaPow {v : Byte} (h : v ≠ 0#8) : ∃ k, k < 255 ∧ alphaPow k = v := by
  obtain ⟨l, hl⟩ := exists_gfLog? h
  exact ⟨l.toNat, gfLog?_eq_some hl⟩

theorem alphaPow_255 : alphaPow 255 = 1#8 := by
  rw [← gfExp_ofNat (by decide)]
  decide +kernel

theorem alphaPow_periodic : Function.Periodic alphaPow 255 := fun k => by
  rw [Nat.add_comm, alphaPow_add, alphaPow_255, ← alphaPow.eq_1, ← alphaPow_add, Nat.zero_add]

theorem gfLog?_alphaPow (k : Nat) : gfLog? (alphaPow k) = some (BitVec.ofNat 8 (k % 255)) := by
  have hk : k % 255 < 256 := by omega
  rw [← alphaPow_periodic.map_mod_nat k, ← gfExp_ofNat hk, gfLog?_gfExp, BitVec.toNat_ofNat, Nat.mod_eq_of_lt hk,
    Nat.mod_mod]

theorem alphaPow_ne_zero (k : Nat) : alphaPow k ≠ 0#8 := fun h => by
  have hlog := gfLog?_alphaPow k
  rw [h] at hlog
  cases hlog

/-- α has order 255. -/
theorem alphaPow_eq_iff {j k : Nat} : alphaPow j = alphaPow k ↔ j % 255 = k % 255 := by
  refine ⟨fun h => ?_, fun h => ?_⟩
  · have hlog := gfLog?_alphaPow j
    rw [h, gfLog?_alphaPow, Option.some.injEq, ← BitVec.toNat_inj, BitVec.toNat_ofNat, BitVec.toNat_ofNat] at hlog
    omega
  · rw [← alphaPow_periodic.map_mod_nat j, h, alphaPow_periodic.map_mod_nat]

/-! ### The product (R121) -/

@[simp] theorem zero_gmul (b : Byte) : gmul 0#8 b = 0#8 := rfl

@[simp] theorem gmul_zero (a : Byte) : gmul a 0#8 = 0#8 := by
  cases h : gfLog? a <;> simp [gmul, h]

theorem gmul_of_logs {a b la lb : Byte} (ha : gfLog? a = some la) (hb : gfLog? b = some lb) :
    gmul a b = gfExp (BitVec.ofNat 8 ((la.toNat + lb.toNat) % 255)) := by
  simp [gmul, ha, hb]

theorem gmul_alphaPow_alphaPow (j k : Nat) : gmul (alphaPow j) (alphaPow k) = alphaPow (j + k) := by
  rw [gmul_of_logs (gfLog?_alphaPow j) (gfLog?_alphaPow k), gfExp_ofNat (by omega), alphaPow_eq_iff]
  simp only [BitVec.toNat_ofNat]
  omega

/-- The product by α^k is doubling k times. -/
theorem gmul_alphaPow (a : Byte) (k : Nat) : gmul a (alphaPow k) = double^[k] a := by
  by_cases ha : a = 0#8
  · rw [ha, zero_gmul, (xorLinear_double.iterate k).map_zero]
  · obtain ⟨j, -, rfl⟩ := exists_alphaPow ha
    rw [gmul_alphaPow_alphaPow, alphaPow_add]

theorem gmul_comm (a b : Byte) : gmul a b = gmul b a := by
  cases ha : gfLog? a <;> cases hb : gfLog? b <;> simp [gmul, ha, hb, Nat.add_comm]

theorem xorLinear_gmul_left (b : Byte) : XorLinear (fun a => gmul a b) := by
  by_cases hb : b = 0#8
  · intro x y
    simp [hb]
  · obtain ⟨k, -, rfl⟩ := exists_alphaPow hb
    simpa only [gmul_alphaPow] using xorLinear_double.iterate k

theorem xorLinear_gmul_right (a : Byte) : XorLinear (gmul a) := fun x y => by
  rw [gmul_comm, gmul_comm a x, gmul_comm a y]
  exact xorLinear_gmul_left a x y

theorem gmul_assoc (a b c : Byte) : gmul (gmul a b) c = gmul a (gmul b c) := by
  by_cases hb : b = 0#8
  · simp [hb]
  by_cases hc : c = 0#8
  · simp [hc]
  obtain ⟨j, -, rfl⟩ := exists_alphaPow hb
  obtain ⟨k, -, rfl⟩ := exists_alphaPow hc
  rw [gmul_alphaPow_alphaPow, gmul_alphaPow, gmul_alphaPow, gmul_alphaPow, Nat.add_comm, Function.iterate_add_apply]

@[simp] theorem gmul_one (a : Byte) : gmul a 1#8 = a := gmul_alphaPow a 0

/-- The inverse of α^k is α^(255 - k), and no other element. -/
theorem gmul_alphaPow_eq_one_iff {k : Nat} (hk : k < 255) (b : Byte) :
    gmul (alphaPow k) b = 1#8 ↔ b = alphaPow (255 - k) := by
  by_cases hb : b = 0#8
  · rw [hb, gmul_zero]
    exact iff_of_false (by decide) (alphaPow_ne_zero _).symm
  · obtain ⟨j, -, rfl⟩ := exists_alphaPow hb
    rw [gmul_alphaPow_alphaPow, ← alphaPow.eq_1, alphaPow_eq_iff, alphaPow_eq_iff]
    omega

/-! ### The carry-less product, reduced (R121) -/

theorem xorLinear_reduced : XorLinear reduced :=
  xorLinear_setWidth.comp
    (XorLinear.foldl (fun k => xorLinear_reduceBit (15 - k) (0x11D#16 <<< (7 - k))) (List.range 8))

theorem reduced_oneBit_shiftLeft : ∀ i, i < 8 → ∀ j, j < 8 →
    reduced ((1#8 <<< j : Byte).setWidth 16 <<< i) = double^[i] (1#8 <<< j) := by
  decide +kernel

theorem alphaPow_eq_oneBit : ∀ i, i < 8 → alphaPow i = 1#8 <<< i := by decide

/-- Shifting by i places before the reduction is doubling i times after it, by the bits of `a`. -/
theorem reduced_shiftLeft (a : Byte) {i : Nat} (hi : i < 8) : reduced (a.setWidth 16 <<< i) = double^[i] a := by
  have linear : XorLinear (fun x : Byte => reduced (x.setWidth 16 <<< i)) :=
    xorLinear_reduced.comp ((xorLinear_shiftLeft i).comp xorLinear_setWidth)
  calc reduced (a.setWidth 16 <<< i)
    _ = bitSum a (fun j => reduced ((1#8 <<< j : Byte).setWidth 16 <<< i)) := by
      rw [← linear.map_bitSum, bitSum_oneBits]
    _ = bitSum a (fun j => double^[i] (1#8 <<< j)) := bitSum_congr (reduced_oneBit_shiftLeft i hi)
    _ = double^[i] a := by rw [← (xorLinear_double.iterate i).map_bitSum, bitSum_oneBits]

/-- By the bits of `b`: both products are sums of `a` doubled i times. -/
theorem gmul_eq_reduced (a b : Byte) : gmul a b = reduced (carrylessProduct a b) := by
  calc gmul a b
    _ = bitSum b (fun i => gmul a (1#8 <<< i)) := by rw [← (xorLinear_gmul_right a).map_bitSum, bitSum_oneBits]
    _ = bitSum b (fun i => reduced (a.setWidth 16 <<< i)) := bitSum_congr fun i hi => by
      rw [← alphaPow_eq_oneBit i hi, gmul_alphaPow, reduced_shiftLeft a hi]
    _ = reduced (carrylessProduct a b) := (xorLinear_reduced.map_bitSum b _).symm

/-! ### The commands (R122 to R124) and the laws (R125) -/

theorem raise_eq_failed (s : State) (e : ErrCode) (stage : Byte) : s.raise e stage = failed s e.code stage := rfl

theorem execGfMul_eq (s : State) :
    exec .gfMul s = .next (succeeded { s with result := (gmul s.fieldArg0 s.fieldArg1).setWidth 32 }) := rfl

theorem execGfExp_eq (s : State) :
    exec .gfExp s = .next (succeeded { s with result := (gfExp s.fieldArg0).setWidth 32 }) := rfl

theorem execGfLog_of_some {s : State} {p : Byte} (h : gfLog? s.fieldArg0 = some p) :
    exec .gfLog s = .next (succeeded { s with result := p.setWidth 32 }) := by
  rw [exec_eq_runStages]
  exact runStages_ok (by rw [bodyGfLog, h])

theorem execGfLog_of_none {s : State} (h : gfLog? s.fieldArg0 = none) :
    exec .gfLog s = .next (failed s 5#4 0x03#8) := by
  rw [exec_eq_runStages]
  exact (runStages_error (by rw [bodyGfLog, h])).trans (congrArg _ (raise_eq_failed s .domain 0x03#8))

/-- Settles O26: the rules of the ROMs, of which the period of α gives EXP[255]. -/
theorem fieldRomsFollowTheirDefinition : Obligations.FieldRomsFollowTheirDefinition :=
  ⟨fun _ => gfExp_ofNat, fun i hi => by rw [gfLog?_alphaPow, Nat.mod_eq_of_lt hi], gfLog?_zero, alphaPow_255⟩

/-- Settles O27: bit by bit of the second operand, both products add the first one doubled. -/
theorem gfMulIsTheReducedCarrylessProduct : Obligations.GfMulIsTheReducedCarrylessProduct := by
  refine ⟨gmul_eq_reduced, ?_, fun _ _ _ _ => gmul_of_logs, fun s => ?_⟩
  · rintro a b (rfl | rfl)
    · exact zero_gmul b
    · exact gmul_zero a
  · rw [← gmul_eq_reduced]
    exact execGfMul_eq s

/-- Settles O28: the EXP ROM holds the powers of α, none of which is 0. -/
theorem gfExpIsAPowerOfAlpha : Obligations.GfExpIsAPowerOfAlpha := by
  refine fun s => ⟨?_, alphaPow_ne_zero _⟩
  rw [execGfExp_eq, gfExp_eq_alphaPow, State.fieldArg0, BitVec.toNat_setWidth]

/-- Settles O29: LOG has an exponent for every element but 0. -/
theorem gfLogIsTheExponentOrDomainError : Obligations.GfLogIsTheExponentOrDomainError := by
  refine fun s => ⟨fun hv => ?_, fun hv => execGfLog_of_none (gfLog?_eq_none.mpr hv)⟩
  obtain ⟨p, hp⟩ := exists_gfLog? hv
  obtain ⟨hlt, hpow⟩ := gfLog?_eq_some hp
  exact ⟨p, execGfLog_of_some hp, Nat.le_of_lt_succ hlt, hpow⟩

/-- Settles O30: the laws of the product, written with powers of α. -/
theorem fieldLawsHold : Obligations.FieldLawsHold := by
  refine ⟨gmul_comm, gmul_assoc, xorLinear_gmul_right, fun a => ⟨gmul_one a, gmul_zero a⟩, fun a l b ha => ?_,
    fun v hv => ?_, gfLog?_gfExp⟩
  · obtain ⟨hl, rfl⟩ := gfLog?_eq_some ha
    rw [gmul_alphaPow_eq_one_iff hl, gfExp_ofNat (by omega), alphaPow_periodic.map_mod_nat]
  · obtain ⟨l, hl⟩ := exists_gfLog? hv
    exact ⟨l, hl, gfExp_of_gfLog? hl⟩

end Sys2Proof.Proofs
end

section
/-! Reed-Solomon (R140 to R146). Evaluation of a coefficient list is linear for XOR; so the generator, a product of
linear factors, vanishes at its roots, and a division step, which adds a multiple of the generator, keeps data followed
by its remainder a codeword. -/

namespace Sys2Proof.Proofs

open Sys2Proof Sys2Proof.Machine Sys2Proof.Spec

/-! ### The product as a linear map, and sums of lists -/

theorem xor_gmul (a b c : Byte) : gmul (a ^^^ b) c = gmul a c ^^^ gmul b c := xorLinear_gmul_left c a b

theorem gmul_xor (a b c : Byte) : gmul a (b ^^^ c) = gmul a b ^^^ gmul a c := xorLinear_gmul_right a b c

@[simp] theorem one_gmul (a : Byte) : gmul 1#8 a = a := by rw [gmul_comm, gmul_one]

theorem zipWith_xor_zeros (as : List Byte) : List.zipWith (· ^^^ ·) as (List.replicate as.length 0#8) = as := by
  induction as with
  | nil => rfl
  | cons a as ih => rw [List.length_cons, List.replicate_succ, List.zipWith_cons_cons, ih, BitVec.xor_zero]

/-- A sum of sums may be taken in the other order. -/
theorem zipWith_xor_xor_comm (as bs cs ds : List Byte) :
    List.zipWith (· ^^^ ·) (List.zipWith (· ^^^ ·) as bs) (List.zipWith (· ^^^ ·) cs ds) =
      List.zipWith (· ^^^ ·) (List.zipWith (· ^^^ ·) as cs) (List.zipWith (· ^^^ ·) bs ds) := by
  refine List.ext_getElem (by simp only [List.length_zipWith, min_min_min_comm]) fun k _ _ => ?_
  simp only [List.getElem_zipWith]
  ac_rfl

/-- A coefficient of a sum is the sum of the coefficients, absent ones counting as 0. -/
theorem zipWith_xor_getD {as bs : List Byte} (h : as.length = bs.length) (k : Nat) :
    (List.zipWith (· ^^^ ·) as bs).getD k 0#8 = as.getD k 0#8 ^^^ bs.getD k 0#8 := by
  by_cases hk : k < as.length
  · have hk' : k < bs.length := h ▸ hk
    simp [List.getD_eq_getElem?_getD, hk, hk']
  · simp [List.getD_eq_getElem?_getD, not_lt.mp hk, h ▸ not_lt.mp hk]

theorem append_zero_getD (as : List Byte) (k : Nat) : (as ++ [0#8]).getD k 0#8 = as.getD k 0#8 := by
  by_cases hk : k < as.length
  · exact List.getD_append _ _ _ _ hk
  · rw [List.getD_append_right _ _ _ _ (not_lt.mp hk), List.getD_eq_default _ _ (not_lt.mp hk)]
    cases k - as.length <;> simp

/-! ### Evaluation of a coefficient list (R140) -/

/-- One coefficient after the others: Horner's rule. -/
theorem evalPoly_append_singleton (cs : List Byte) (c x : Byte) :
    evalPoly (cs ++ [c]) x = gmul (evalPoly cs x) x ^^^ c := by
  rw [evalPoly, List.foldl_append, ← evalPoly]
  rfl

@[simp] theorem evalPoly_zero_cons (cs : List Byte) (x : Byte) : evalPoly (0#8 :: cs) x = evalPoly cs x := by
  simp [evalPoly]

@[simp] theorem evalPoly_zeros (k : Nat) (x : Byte) : evalPoly (List.replicate k 0#8) x = 0#8 := by
  induction k with
  | zero => rfl
  | succ k ih => rw [List.replicate_succ, evalPoly_zero_cons, ih]

theorem evalPoly_zeros_append (k : Nat) (cs : List Byte) (x : Byte) :
    evalPoly (List.replicate k 0#8 ++ cs) x = evalPoly cs x := by
  rw [evalPoly, List.foldl_append, ← evalPoly, evalPoly_zeros, ← evalPoly]

/-- The sum of two polynomials evaluates to the sum of their values. -/
theorem evalPoly_zipWith_xor {as bs : List Byte} (h : as.length = bs.length) (x : Byte) :
    evalPoly (List.zipWith (· ^^^ ·) as bs) x = evalPoly as x ^^^ evalPoly bs x := by
  have hstep (p q : Byte) (c : Byte × Byte) :
      (gmul p x ^^^ c.1) ^^^ (gmul q x ^^^ c.2) = gmul (p ^^^ q) x ^^^ (c.1 ^^^ c.2) := by
    rw [xor_gmul]
    ac_rfl
  calc evalPoly (List.zipWith (· ^^^ ·) as bs) x
    _ = (as.zip bs).foldl (fun p c => gmul p x ^^^ (c.1 ^^^ c.2)) 0#8 := by
      rw [evalPoly, ← List.map_uncurry_zip_eq_zipWith, List.foldl_map]
      rfl
    _ = (as.zip bs).foldl (fun p c => gmul p x ^^^ c.1) 0#8 ^^^ (as.zip bs).foldl (fun p c => gmul p x ^^^ c.2) 0#8 :=
      List.foldl_hom₂ (as.zip bs) (· ^^^ ·) (fun p c => gmul p x ^^^ c.1) (fun q c => gmul q x ^^^ c.2) _ 0#8 0#8 hstep
    _ = evalPoly ((as.zip bs).map Prod.fst) x ^^^ evalPoly ((as.zip bs).map Prod.snd) x := by
      rw [evalPoly, evalPoly, List.foldl_map, List.foldl_map]
    _ = evalPoly as x ^^^ evalPoly bs x := by rw [List.map_fst_zip h.le, List.map_snd_zip h.ge]

/-- A multiple of a polynomial evaluates to the multiple of its value. -/
theorem evalPoly_map_gmul (cs : List Byte) (a x : Byte) :
    evalPoly (cs.map (fun c => gmul c a)) x = gmul (evalPoly cs x) a := by
  have hstep (p c : Byte) : gmul (gmul p a) x ^^^ gmul c a = gmul (gmul p x ^^^ c) a := by
    rw [xor_gmul, gmul_assoc, gmul_assoc, gmul_comm a x]
  rw [evalPoly, List.foldl_map]
  exact List.foldl_hom (fun p => gmul p a) (init := 0#8) hstep

/-! ### The generator polynomial (R141) -/

/-- The product by x + a evaluates to the product by the factor's value. -/
theorem evalPoly_mulLinear (g : List Byte) (a x : Byte) :
    evalPoly (mulLinear g a) x = gmul (evalPoly g x) (x ^^^ a) := by
  rw [mulLinear, evalPoly_zipWith_xor (by simp), evalPoly_append_singleton, BitVec.xor_zero, evalPoly_zero_cons,
    evalPoly_map_gmul, gmul_xor]

theorem mulLinear_getD (g : List Byte) (a : Byte) (k : Nat) :
    (mulLinear g a).getD k 0#8 = g.getD k 0#8 ^^^ (if k = 0 then 0#8 else gmul (g.getD (k - 1) 0#8) a) := by
  rw [mulLinear, zipWith_xor_getD (by simp), append_zero_getD]
  cases k with
  | zero => rfl
  | succ k =>
    have hmap := List.getD_map (l := g) (d := 0#8) (n := k) (fun c => gmul c a)
    rw [zero_gmul] at hmap
    rw [List.getD_cons_succ, hmap, if_neg k.succ_ne_zero, Nat.add_sub_cancel]

theorem genpoly_succ {n : Nat} (h : n < 256) : genpoly (n + 1) = mulLinear (genpoly n) (alphaPow n) := by
  rw [genpoly, gfExp_ofNat h]

/-- The generator is monic. -/
theorem genpoly_eq_one_cons_tail (n : Nat) : genpoly n = 1#8 :: (genpoly n).tail := by
  induction n with
  | zero => rfl
  | succ n ih =>
    rw [genpoly, ih]
    rfl

/-- The generator vanishes at α^i for each of its factors x + α^i. -/
theorem evalPoly_genpoly {n i : Nat} (hn : n ≤ 256) (hi : i < n) : evalPoly (genpoly n) (alphaPow i) = 0#8 := by
  induction n with
  | zero => exact absurd hi (Nat.not_lt_zero i)
  | succ n ih =>
    rw [genpoly_succ hn, evalPoly_mulLinear]
    rcases Nat.lt_succ_iff_lt_or_eq.mp hi with hlt | rfl
    · rw [ih (Nat.le_of_succ_le hn) hlt, zero_gmul]
    · rw [BitVec.xor_self, gmul_zero]

/-- Settles O31: multiplying by a linear factor, coefficient by coefficient and by its value. -/
theorem generatorIsTheProductOfItsFactors : Obligations.GeneratorIsTheProductOfItsFactors := by
  refine ⟨rfl, fun n hn k _ => ?_, fun n hn => ⟨genpoly_length n, ?_, fun i => evalPoly_genpoly (by omega)⟩⟩
  · rw [genpoly_succ (by omega), mulLinear_getD]
  · rw [genpoly_eq_one_cons_tail, List.head?_cons]

theorem map_alphaPow {es : List Nat} (h : ∀ e ∈ es, e < 256) :
    es.map alphaPow = es.map (fun e => gfExp (BitVec.ofNat 8 e)) :=
  List.map_congr_left fun e he => (gfExp_ofNat (h e he)).symm

/-- Settles O32: the generators computed with the ROMs of the machine. -/
theorem generatorTableOfTheSpec : Obligations.GeneratorTableOfTheSpec := by
  unfold Obligations.GeneratorTableOfTheSpec
  iterate 7 rw [map_alphaPow (by decide)]
  decide +kernel

/-! ### The remainder (R142, R145) -/

theorem genpoly_tail_length (n : Nat) : (genpoly n).tail.length = n := by
  rw [List.length_tail, genpoly_length, Nat.add_sub_cancel]

@[simp] theorem rsrem_nil (n : Nat) : rsrem [] n = List.replicate n 0#8 := rfl

theorem rsrem_append_singleton (d : List Byte) (c : Byte) (n : Nat) :
    rsrem (d ++ [c]) n = divStep (genpoly n).tail (rsrem d n) c := by
  rw [rsrem, List.foldl_append, ← rsrem]
  rfl

/-- A division step multiplies by x and adds a multiple of the generator, so where the generator vanishes the value of
the data with the remainder is multiplied by x. -/
theorem evalPoly_divStep {gt rem : List Byte} (d : List Byte) (c : Byte) {x : Byte} (hlen : rem.length = gt.length)
    (hroot : evalPoly (1#8 :: gt) x = 0#8) :
    evalPoly (d ++ [c] ++ divStep gt rem c) x = gmul (evalPoly (d ++ rem) x) x := by
  cases rem with
  | nil =>
    obtain rfl := List.length_eq_zero_iff.mp hlen.symm
    exact absurd hroot (by simp [evalPoly])
  | cons r rs =>
    have hsplit : d ++ [c] ++ divStep gt (r :: rs) c = List.zipWith (· ^^^ ·) (d ++ r :: rs ++ [0#8])
        (List.replicate d.length 0#8 ++ (1#8 :: gt).map (fun g => gmul g (c ^^^ r))) := by
      have hlead : r ^^^ (c ^^^ r) = c := by rw [BitVec.xor_comm c, ← BitVec.xor_assoc, BitVec.xor_self, BitVec.zero_xor]
      rw [List.append_assoc d (r :: rs), List.zipWith_append (by simp), zipWith_xor_zeros, List.map_cons, one_gmul,
        List.cons_append, List.zipWith_cons_cons, hlead, List.append_assoc, divStep, List.singleton_append]
    rw [hsplit, evalPoly_zipWith_xor (by simpa using hlen), evalPoly_append_singleton, BitVec.xor_zero,
      evalPoly_zeros_append, evalPoly_map_gmul, hroot, zero_gmul, BitVec.xor_zero]

/-- Settles O33: every division step keeps the value at a root of the generator 0. -/
theorem dataWithRemainderHasZeroSyndromes : Obligations.DataWithRemainderHasZeroSyndromes := by
  intro d n i hn hi
  have hroot : evalPoly (1#8 :: (genpoly n).tail) (alphaPow i) = 0#8 := by
    rw [← genpoly_eq_one_cons_tail, evalPoly_genpoly (by omega) hi]
  induction d using List.reverseRecOn with
  | nil => exact evalPoly_zeros n _
  | append_singleton d c ih =>
    rw [rsrem_append_singleton, evalPoly_divStep d c (by rw [rsrem_length, genpoly_tail_length]) hroot, ih, zero_gmul]

theorem divStep_xor (gt : List Byte) {rem rem' : List Byte} (h : rem.length = rem'.length) (c c' : Byte) :
    divStep gt (List.zipWith (· ^^^ ·) rem rem') (c ^^^ c') =
      List.zipWith (· ^^^ ·) (divStep gt rem c) (divStep gt rem' c') := by
  match rem, rem', h with
  | [], [], _ => rfl
  | r :: rs, r' :: rs', h =>
    have hfactor : c ^^^ c' ^^^ (r ^^^ r') = (c ^^^ r) ^^^ (c' ^^^ r') := by ac_rfl
    have hmap : gt.map (fun g => gmul g (c ^^^ c' ^^^ (r ^^^ r'))) = List.zipWith (· ^^^ ·)
        (gt.map (fun g => gmul g (c ^^^ r))) (gt.map (fun g => gmul g (c' ^^^ r'))) := by
      simp only [hfactor, gmul_xor, List.zipWith_map, List.zipWith_self]
    have hshift : List.zipWith (· ^^^ ·) rs rs' ++ [0#8] = List.zipWith (· ^^^ ·) (rs ++ [0#8]) (rs' ++ [0#8]) := by
      rw [List.zipWith_append (Nat.succ.inj h)]
      rfl
    rw [List.zipWith_cons_cons, divStep, hmap, hshift, zipWith_xor_xor_comm, divStep, divStep]

theorem rsrem_xor {d d' : List Byte} (h : d.length = d'.length) (n : Nat) :
    rsrem (List.zipWith (· ^^^ ·) d d') n = List.zipWith (· ^^^ ·) (rsrem d n) (rsrem d' n) := by
  induction d using List.reverseRecOn generalizing d' with
  | nil =>
    obtain rfl := List.length_eq_zero_iff.mp h.symm
    simp
  | append_singleton d c ih =>
    obtain rfl | ⟨d', c', rfl⟩ := d'.eq_nil_or_concat'
    · simp at h
    · have hd : d.length = d'.length := by simpa using h
      rw [List.zipWith_append hd, rsrem_append_singleton, rsrem_append_singleton, ← divStep_xor _ (by simp [rsrem_length]),
        ← ih hd, ← rsrem_append_singleton]
      rfl

/-- A linear step keeps the zero remainder on a zero codeword. -/
theorem divStep_zeros (gt : List Byte) :
    divStep gt (List.replicate gt.length 0#8) 0#8 = List.replicate gt.length 0#8 := by
  have hlen := divStep_length (gt := gt) (rem := List.replicate gt.length 0#8) 0#8 List.length_replicate
  have hself := divStep_xor gt (rem := List.replicate gt.length 0#8) rfl 0#8 0#8
  simpa [List.zipWith_self, List.map_const', hlen] using hself

theorem rsrem_zero_cons (d : List Byte) (n : Nat) : rsrem (0#8 :: d) n = rsrem d n := by
  have hzero := divStep_zeros (genpoly n).tail
  rw [genpoly_tail_length] at hzero
  rw [rsrem, List.foldl_cons, hzero, ← rsrem]

theorem rsrem_zeros (k n : Nat) : rsrem (List.replicate k 0#8) n = List.replicate n 0#8 := by
  induction k with
  | zero => rfl
  | succ k ih => rw [List.replicate_succ, rsrem_zero_cons, ih]

/-- Settles O34: a division step is linear, keeps the length, and keeps the zero remainder on a zero codeword. -/
theorem remainderIsLinearOfFixedLength : Obligations.RemainderIsLinearOfFixedLength := fun n =>
  ⟨fun d => rsrem_length d n, fun _ _ h => rsrem_xor h n, fun k => rsrem_zeros k n, fun d => rsrem_zero_cons d n⟩

end Sys2Proof.Proofs
end

section
/-! The Reed-Solomon commands RS_GEN and RS_ENC (R143, R144): their counts in both modes, and what they write when their
operands are checked and their bytes are there. -/

namespace Sys2Proof.Proofs

open Sys2Proof Sys2Proof.Machine Sys2Proof.Spec

/-! ### Bytes that a command reads -/

section
variable {s : State} {b : BufName} {n : Nat} (hlo : 0x100 ≤ b.windowBase) (hhi : b.windowBase + n ≤ 0x2C0)
include hlo hhi

/-- Inside the buffers, the bytes of the byte memory are those that show (R60). -/
theorem byteAt_windowBase {k : Nat} (hk : k < n) : s.byteAt (b.windowBase + k) = s.mem.get? (b.windowBase + k) := by
  refine State.byteAt_buffer s ?_
  simp only [isBufferOffset, Bool.and_eq_true, decide_eq_true_eq]
  omega

theorem readBuffer_of_holds {vs : List Byte} (hn : vs.length = n) (h : holds s b.windowBase vs) :
    s.readBuffer b n = some vs :=
  Memory.readAll_eq_some.mpr ⟨hn, fun k hk => by rw [← byteAt_windowBase hlo hhi hk, h k (hn ▸ hk)]⟩

theorem readBuffer_of_lacks (h : lacks s b.windowBase n) : s.readBuffer b n = none := by
  obtain ⟨k, hk, hnone⟩ := h
  exact Memory.readAll_eq_none.mpr ⟨k, hk, by rw [← byteAt_windowBase hlo hhi hk, hnone]⟩

end

/-! ### The row of the capacity table that CONFIG selects -/

theorem checkedCapacity_of_supports {s : State} {v : Version} (h : supports s v) :
    s.checkedCapacity = .ok (capacity v s.level) :=
  State.checkedCapacity_eq_ok.mpr ⟨v, State.checkedVersion_eq_ok.mpr h, rfl⟩

theorem checkedCapacity_of_unsupported {s : State} (h : unsupported s) :
    s.checkedCapacity = .error .unsupportedConfiguration :=
  State.checkedCapacity_eq_error.mpr (State.checkedVersion_eq_error.mpr ⟨rfl, h⟩)

/-! ### RS_GEN (R143) -/

theorem genCount_explicit {s : State} (h : s.arg1.toNat ≤ 63) : s.genCount true = .ok s.arg1.toNat := by
  simp [State.genCount, State.countArg1, h]

theorem genCount_explicit_of_large {s : State} (h : 63 < s.arg1.toNat) : s.genCount true = .error .badArgument := by
  simp [State.genCount, State.countArg1, h]

theorem genCount_config {s : State} {v : Version} (h : supports s v) :
    s.genCount false = .ok (capacity v s.level).ecCount := by
  simp [State.genCount, checkedCapacity_of_supports h]

theorem genCount_config_of_unsupported {s : State} (h : unsupported s) :
    s.genCount false = .error .unsupportedConfiguration := by
  simp [State.genCount, checkedCapacity_of_unsupported h]

/-- With a checked count RS_GEN completes, with the generator in GEN and its length in RESULT. -/
theorem execRsGen_of_count {s : State} {x : Bool} {n : Nat} (h : s.genCount x = .ok n) :
    ∃ t, exec (.rsGen x) s = .next t ∧ t = succeeded { s with mem := t.mem, result := BitVec.ofNat 32 (n + 1) } ∧
      storesAt s t 0x280 (genpoly n) := by
  have hn := State.genCount_le h
  have hbody : bodyRsGen x s = .ok { s.writeBuffer .gen (genpoly n) with result := BitVec.ofNat 32 (n + 1) } := by
    rw [bodyRsGen, h]
  refine ⟨_, (exec_eq_runStages _ s).trans (runStages_ok hbody), rfl, storesAt_of_setAll rfl rfl (by decide) ?_⟩
  rw [genpoly_length]
  omega

theorem execRsGen_of_error {s : State} {x : Bool} {e : ErrCode} (h : s.genCount x = .error e) :
    exec (.rsGen x) s = .next (failed s e.code 0x04#8) :=
  (exec_eq_runStages _ s).trans (runStages_error (by rw [bodyRsGen, h]))

/-- Settles O35: each mode by its count. -/
theorem rsGenWritesTheGenerator : Obligations.RsGenWritesTheGenerator := fun _ =>
  ⟨fun h => execRsGen_of_count (genCount_explicit h), fun _ h => execRsGen_of_count (genCount_config h),
    fun h => execRsGen_of_error (genCount_explicit_of_large h),
    fun h => execRsGen_of_error (genCount_config_of_unsupported h)⟩

/-! ### RS_ENC (R144) -/

theorem encCounts_explicit {s : State} (h0 : s.arg0.toNat ≤ 64) (h1 : s.arg1.toNat ≤ 63) :
    s.encCounts true = .ok (s.arg0.toNat, s.arg1.toNat) := by
  simp [State.encCounts, State.countArg0, State.countArg1, h0, h1]

theorem encCounts_explicit_of_large {s : State} (h : 64 < s.arg0.toNat ∨ 63 < s.arg1.toNat) :
    s.encCounts true = .error .badArgument := by
  simp [State.encCounts, State.countArg0, State.countArg1, h]

theorem encCounts_config {s : State} {v : Version} (h : supports s v) :
    s.encCounts false = .ok ((capacity v s.level).dataCount, (capacity v s.level).ecCount) := by
  simp [State.encCounts, checkedCapacity_of_supports h]

theorem encCounts_config_of_unsupported {s : State} (h : unsupported s) :
    s.encCounts false = .error .unsupportedConfiguration := by
  simp [State.encCounts, checkedCapacity_of_unsupported h]

/-- With checked counts and its data bytes written RS_ENC completes, with the remainder in EC and its length in ECLEN. -/
theorem execRsEnc_of_holds {s : State} {x : Bool} {nData n : Nat} (h : s.encCounts x = .ok (nData, n)) {d : List Byte}
    (hlen : d.length = nData) (hd : holds s 0x200 d) :
    ∃ t, exec (.rsEnc x) s = .next t ∧ t = succeeded { s with mem := t.mem, eclen := BitVec.ofNat 8 n } ∧
      storesAt s t 0x240 (rsrem d n) := by
  obtain ⟨hnData, hn⟩ := State.encCounts_le h
  have hread : s.readBuffer .data nData = some d :=
    readBuffer_of_holds (by decide) (by simp only [BufName.windowBase]; omega) hlen hd
  have hbody : bodyRsEnc x s = .ok { s.writeBuffer .ec (rsrem d n) with eclen := BitVec.ofNat 8 n } := by
    simp only [bodyRsEnc, h, hread]
  refine ⟨_, (exec_eq_runStages _ s).trans (runStages_ok hbody), rfl, storesAt_of_setAll rfl rfl (by decide) ?_⟩
  rw [rsrem_length]
  omega

theorem execRsEnc_of_lacks {s : State} {x : Bool} {nData n : Nat} (h : s.encCounts x = .ok (nData, n))
    (hd : lacks s 0x200 nData) : exec (.rsEnc x) s = .fault .uninit := by
  obtain ⟨hnData, -⟩ := State.encCounts_le h
  have hread : s.readBuffer .data nData = none :=
    readBuffer_of_lacks (by decide) (by simp only [BufName.windowBase]; omega) hd
  exact (exec_eq_runStages _ s).trans (runStages_uninit (by simp only [bodyRsEnc, h, hread]))

theorem execRsEnc_of_error {s : State} {x : Bool} {e : ErrCode} (h : s.encCounts x = .error e) :
    exec (.rsEnc x) s = .next (failed s e.code 0x05#8) :=
  (exec_eq_runStages _ s).trans (runStages_error (by rw [bodyRsEnc, h]))

/-- Settles O36: each mode by its counts. -/
theorem rsEncWritesTheRemainder : Obligations.RsEncWritesTheRemainder := by
  intro s encodes
  have encodes_of_counts {x : Bool} {nData n : Nat} (h : s.encCounts x = .ok (nData, n)) : encodes x nData n :=
    ⟨fun _ => execRsEnc_of_holds h, execRsEnc_of_lacks h⟩
  exact ⟨fun h0 h1 => encodes_of_counts (encCounts_explicit h0 h1), fun _ h => encodes_of_counts (encCounts_config h),
    fun h => execRsEnc_of_error (encCounts_explicit_of_large h),
    fun h => execRsEnc_of_error (encCounts_config_of_unsupported h)⟩

end Sys2Proof.Proofs
end

section
/-! The data codewords of a payload (R160 to R164): the builder's bits start half a codeword early, so each codeword joins
the low nibble of a byte with the high nibble of the next; then BS_BUILD (R163). -/

namespace Sys2Proof.Proofs

open Sys2Proof Sys2Proof.Machine Sys2Proof.Spec

/-! ### Codewords by nibbles (R162, R164) -/

/-- The low nibble of a byte, then the high nibble of the next. -/
def joinNibbles (a b : Byte) : Byte := (a <<< 4) ||| (b >>> 4)

theorem byteOfBits_eq_joinNibbles (a b : Byte) :
    byteOfBits (a.getLsbD 3) (a.getLsbD 2) (a.getLsbD 1) (a.getLsbD 0) (b.getLsbD 7) (b.getLsbD 6) (b.getLsbD 5)
      (b.getLsbD 4) = joinNibbles a b := by
  refine BitVec.eq_of_getLsbD_eq fun i hi => ?_
  simp only [byteOfBits, joinNibbles, BitVec.getLsbD_append, BitVec.getLsbD_ofBool, BitVec.getLsbD_or,
    BitVec.getLsbD_shiftLeft, BitVec.getLsbD_ushiftRight]
  interval_cases i <;> simp

/-- Bits that are the low nibble of `a`, whole bytes and a zero nibble: each codeword joins two neighbours. -/
theorem groupBits_nibbles (a : Byte) (q : List Byte) :
    groupBits ((bits8 a).drop 4 ++ (bitsOf q ++ List.replicate 4 false)) =
      List.zipWith joinNibbles (a :: q) (q ++ [0#8]) := by
  induction q generalizing a with
  | nil =>
    have h := byteOfBits_eq_joinNibbles a 0#8
    simpa [bits8, bitsOf, groupBits] using h
  | cons b q ih =>
    have h := ih b
    simp only [bits8, bitsOf, List.drop_succ_cons, List.drop_zero, List.flatMap_cons, List.cons_append, List.nil_append,
      groupBits, List.zipWith_cons_cons, byteOfBits_eq_joinNibbles] at h ⊢
    rw [h]

/-- The mode indicator is the low nibble of 0x04, and the count is one byte more (R160, R161). -/
theorem headerAndPayload_eq (p : List Byte) :
    headerAndPayload p = (bits8 0x04#8).drop 4 ++ bitsOf (BitVec.ofNat 8 p.length :: p) := rfl

/-- A payload that fits leaves space for the whole terminator, which ends a codeword; the rest are pads (R162). -/
theorem bsbuild_of_fits {p : List Byte} {d : Nat} (h : 12 + 8 * p.length ≤ 8 * d) :
    bsbuild p d =
      List.zipWith joinNibbles (0x04#8 :: BitVec.ofNat 8 p.length :: p) (BitVec.ofNat 8 p.length :: p ++ [0#8]) ++
        padCodewords true (d - (p.length + 2)) := by
  have hterm : terminator (12 + 8 * p.length) (8 * d) = List.replicate 4 false := by
    rw [terminator, Nat.min_eq_left (by omega)]
  have hpad : boundaryPad (12 + 8 * p.length + 4) = [] := by
    rw [boundaryPad, show (8 - (12 + 8 * p.length + 4) % 8) % 8 = 0 by omega]
    rfl
  simp only [bsbuild, headerAndPayload_length, hterm, List.length_append, List.length_replicate, hpad, List.append_nil]
  rw [headerAndPayload_eq, List.append_assoc, groupBits_nibbles]
  simp

/-- The pad codewords by number, `first` saying that number 0 is 0xEC (R162). -/
theorem padCodewords_eq_map (first : Bool) (m : Nat) :
    padCodewords first m = (List.range m).map fun j => if decide (j % 2 = 0) = first then 0xEC#8 else 0x11#8 := by
  induction m generalizing first with
  | zero => rfl
  | succ m ih =>
    have alternates (j : Nat) : (decide (j % 2 = 0) = !first) = (decide ((j + 1) % 2 = 0) = first) := by
      obtain hj | hj := Nat.mod_two_eq_zero_or_one j <;> cases first <;> simp [Nat.add_mod, hj]
    simp only [padCodewords, ih, List.range_succ_eq_map, List.map_cons, List.map_map, Function.comp_def, alternates,
      Nat.succ_eq_add_one]
    cases first <;> rfl

theorem shiftLeft_lowNibble (a : Byte) : (a &&& 0x0F#8) <<< 4 = a <<< 4 := by
  refine BitVec.eq_of_getLsbD_eq fun i hi => ?_
  interval_cases i <;> simp

/-! The two nibbles of the count (R164). -/

theorem ofNat_highNibble {n : Nat} (h : n < 256) : BitVec.ofNat 8 (n / 16) = BitVec.ofNat 8 n >>> 4 := by
  refine BitVec.eq_of_toNat_eq ?_
  simp only [BitVec.toNat_ushiftRight, BitVec.toNat_ofNat, Nat.shiftRight_eq_div_pow]
  omega

theorem ofNat_lowNibble (n : Nat) : BitVec.ofNat 8 (n % 16) <<< 4 = BitVec.ofNat 8 n <<< 4 := by
  refine BitVec.eq_of_toNat_eq ?_
  simp only [BitVec.toNat_shiftLeft, BitVec.toNat_ofNat, Nat.shiftLeft_eq]
  omega

/-- A codeword before the pads joins two nibbles (R164). -/
theorem dataCodeword_eq_joinNibbles {p : List Byte} (hp : p.length < 256) {k : Nat} (hk : k < p.length + 2) :
    dataCodeword p k = joinNibbles ((0x04#8 :: BitVec.ofNat 8 p.length :: p).getD k 0#8)
      ((BitVec.ofNat 8 p.length :: p).getD k 0#8) := by
  match k with
  | 0 => simp [dataCodeword, joinNibbles, ofNat_highNibble hp]
  | 1 =>
    rw [dataCodeword, if_neg (by decide), if_pos rfl, ofNat_lowNibble]
    cases p <;> simp [joinNibbles]
  | k + 2 =>
    obtain hmid | hlast : k + 1 < p.length ∨ k + 1 = p.length := by omega
    · simp [dataCodeword, joinNibbles, shiftLeft_lowNibble, hmid, Nat.succ_le_of_lt hmid]
    · simp [dataCodeword, joinNibbles, shiftLeft_lowNibble, ← hlast]

theorem dataCodeword_pad (p : List Byte) (j : Nat) :
    dataCodeword p (p.length + 2 + j) = if j % 2 = 0 then 0xEC#8 else 0x11#8 := by
  simp only [dataCodeword]
  rw [if_neg (by omega), if_neg (by omega), if_neg (by omega), if_neg (by omega), Nat.add_sub_cancel_left]

@[simp] theorem dataCodewords_length (p : List Byte) (d : Nat) : (dataCodewords p d).length = d := by
  simp [dataCodewords]

/-- The builder's codewords are those of R164. -/
theorem bsbuild_eq_dataCodewords {p : List Byte} {d : Nat} (hp : p.length < 256) (h : 12 + 8 * p.length ≤ 8 * d) :
    bsbuild p d = dataCodewords p d := by
  obtain ⟨m, rfl⟩ := Nat.exists_eq_add_of_le (show p.length + 2 ≤ d by omega)
  rw [bsbuild_of_fits h, dataCodewords, List.range_add, List.map_append, List.map_map, padCodewords_eq_map,
    Nat.add_sub_cancel_left]
  congr 1
  · refine List.ext_getElem (by simp) fun k hk hk' => ?_
    rw [List.length_map, List.length_range] at hk'
    rw [List.getElem_map, List.getElem_range, dataCodeword_eq_joinNibbles hp hk', List.getElem_zipWith,
      List.getElem_eq_getD 0#8, List.getElem_eq_getD 0#8, append_zero_getD]
  · simp [dataCodeword_pad]

/-! ### BS_BUILD (R163) -/

/-- The state after BS_BUILD's stage on a payload that fits. -/
def bsBuilt (s : State) (p : List Byte) (d : Nat) : State :=
  { s.writeBuffer .data (dataCodewords p d) with
    dlen := BitVec.ofNat 8 d, bitcnt := BitVec.ofNat 16 (12 + 8 * s.arg0.toNat) }

section
variable {s : State} {v : Version}

theorem bodyBsBuild_of_holds {p : List Byte} (hv : supports s v) (hp : p.length = s.arg0.toNat)
    (hfit : 12 + 8 * s.arg0.toNat ≤ 8 * (capacity v s.level).dataCount) (ht : holds s 0x100 p) :
    bodyBsBuild s = .ok (bsBuilt s p (capacity v s.level).dataCount) := by
  obtain ⟨-, hd, -, -⟩ := capacity_bounds v s.level
  have hread : s.readBuffer .text s.countArg0 = some p :=
    readBuffer_of_holds (by decide) (by simp only [BufName.windowBase, State.countArg0]; omega) hp ht
  simp only [bodyBsBuild, checkedCapacity_of_supports hv, hread]
  rw [State.countArg0, if_neg (by omega), bsbuild_eq_dataCodewords (by omega) (by omega), bsBuilt]

theorem bodyBsBuild_of_lacks (hv : supports s v) (hfit : 12 + 8 * s.arg0.toNat ≤ 8 * (capacity v s.level).dataCount)
    (ht : lacks s 0x100 s.arg0.toNat) : bodyBsBuild s = .uninit := by
  obtain ⟨-, hd, -, -⟩ := capacity_bounds v s.level
  have hread : s.readBuffer .text s.countArg0 = none :=
    readBuffer_of_lacks (by decide) (by simp only [BufName.windowBase, State.countArg0]; omega) ht
  simp only [bodyBsBuild, checkedCapacity_of_supports hv, hread]
  rw [State.countArg0, if_neg (by omega)]

theorem bodyBsBuild_of_tooLong (hv : supports s v) (hlong : 8 * (capacity v s.level).dataCount < 12 + 8 * s.arg0.toNat) :
    bodyBsBuild s = .error .capacityExceeded 0x06#8 := by
  simp only [bodyBsBuild, checkedCapacity_of_supports hv]
  exact if_pos hlong

theorem bodyBsBuild_of_unsupported (h : unsupported s) : bodyBsBuild s = .error .unsupportedConfiguration 0x06#8 := by
  simp only [bodyBsBuild, checkedCapacity_of_unsupported h]

end

/-- Settles O37: BS_BUILD is its one stage. -/
theorem bsBuildWritesTheDataCodewords : Obligations.BsBuildWritesTheDataCodewords := by
  refine fun s => ⟨fun v hv => ⟨fun hlong => runStages_error (bodyBsBuild_of_tooLong hv hlong),
    fun hfit p hp ht => ?_, fun hfit ht => runStages_uninit (bodyBsBuild_of_lacks hv hfit ht)⟩,
    fun h => runStages_error (bodyBsBuild_of_unsupported h)⟩
  obtain ⟨-, hd, -, -⟩ := capacity_bounds v s.level
  exact ⟨_, runStages_ok (bodyBsBuild_of_holds hv hp hfit ht), rfl,
    storesAt_of_setAll rfl rfl (by decide) (by rw [dataCodewords_length]; omega)⟩

end Sys2Proof.Proofs
end

section
/-! ENCODE (R271, R272): each of its five stages succeeds on the state that the stage before it leaves, so ENCODE of a
payload that fits completes from any state. -/

namespace Sys2Proof.Proofs

open Sys2Proof Sys2Proof.Machine Sys2Proof.Spec

/-! ### What was written is read back -/

theorem readGrid_writeGrid (s : State) {v : Version} {g : Grid} (hg : g.Rect v.size v.size) :
    (s.writeGrid g).readGrid v = some g := by
  have hlen := Grid.flatten_length hg
  have hle : g.flatten.length ≤ s.matrix.toList.length := by
    rw [hlen, Vector.length_toList]
    exact v.size_sq_le
  rw [State.readGrid_of_cells hlen, rowsOf_flatten hg]
  intro k hk
  rw [State.writeGrid_matrix, overlay_toList, overlayList_getElem? _ _ hle, if_pos (hlen ▸ hk),
    List.getElem?_eq_getElem (hlen ▸ hk)]
  rfl

theorem readBuffer_writeBuffer (s : State) (b : BufName) (vs : List Byte) :
    (s.writeBuffer b vs).readBuffer b vs.length = some vs :=
  Memory.readAll_setAll s.mem b.windowBase vs

/-- DATA is read as before a write to EC (R60). -/
theorem readBuffer_data_writeBuffer_ec (s : State) {n : Nat} (hn : n ≤ 64) (vs : List Byte) :
    (s.writeBuffer .ec vs).readBuffer .data n = s.readBuffer .data n :=
  Memory.readAll_setAll_disjoint s.mem (.inr (by simp only [BufName.windowBase]; omega))

/-! ### The stages after BS_BUILD, each on a state that is ready for it -/

/-- The state after RS_ENC's stage. -/
def rsEncoded (s : State) (d : List Byte) (n : Nat) : State :=
  { s.writeBuffer .ec (rsrem d n) with eclen := BitVec.ofNat 8 n }

/-- The state after MX_BUILD's stage. -/
def mxBuilt (s : State) (v : Version) : State :=
  { s with matrix := overlay (mxbuildCells v) s.matrix, mx := .built v }

/-- The built matrix with the supply of the codewords in its free cells. -/
def placedGrid (v : Version) (d e : List Byte) : Grid :=
  mxplace (mxbuild v) (placementOrder v.size (mxbuild v)) (bitSupply v d e)

/-- The state after MX_PLACE's stage on a built matrix. -/
def mxPlaced (s : State) (v : Version) (d e : List Byte) : State :=
  { s.writeGrid (placedGrid v d e) with mx := .placed v }

/-- `t` is the end of `s` but for a MASKED matrix and the registers that MASK_SELECT writes (R250). -/
def EndsMasked (v : Version) (s t : State) : Prop :=
  t = succeeded { s with
    matrix := t.matrix, mx := .masked v, mask := t.mask, score := t.score, scores := t.scores, pen1 := t.pen1,
    pen2 := t.pen2, pen3 := t.pen3, pen4 := t.pen4 } ∧ t.CellsOk

/-- The order on the built matrix takes the whole supply (R220, R223). -/
theorem placementOrder_mxbuild_length (v : Version) : (placementOrder v.size (mxbuild v)).length = supplyLength v := by
  cases v <;> decide +kernel

section
variable {s : State} {v : Version} (hv : supports s v)
include hv

theorem bodyRsEnc_of_read {d : List Byte} (hd : s.readBuffer .data (capacity v s.level).dataCount = some d) :
    bodyRsEnc false s = .ok (rsEncoded s d (capacity v s.level).ecCount) := by
  simp only [bodyRsEnc, encCounts_config hv, hd, rsEncoded]

theorem bodyMxBuild_of_supports : bodyMxBuild s = .ok (mxBuilt s v) := by
  simp only [bodyMxBuild, State.checkedVersion_eq_ok.mpr hv, mxBuilt]

theorem bodyMxPlace_of_built {d e : List Byte} (hmx : s.mx = .built v) (hs : s.CellsOk)
    (hd : s.readBuffer .data (capacity v s.level).dataCount = some d)
    (he : s.readBuffer .ec (capacity v s.level).ecCount = some e) : bodyMxPlace s = .ok (mxPlaced s v d e) := by
  have hbuilt : s.matrix.toList = (mxbuildCells v).map some := by simpa only [State.CellsOk, hmx] using hs
  have hversion : s.builtVersion = .ok v := by rw [State.builtVersion, hmx]
  simp only [bodyMxPlace, State.checkedVersion_eq_ok.mpr hv, hversion, readGrid_of_built hbuilt,
    placementOrder_mxbuild_length, lt_self_iff_false, if_false, hd, he, mxPlaced, placedGrid]

theorem bodyMaskSelect_of_placed {mv : Version} {g : Grid} (hmx : s.mx = .placed mv) (hg : s.readGrid mv = some g) :
    bodyMaskSelect s = .ok (s.select mv g) := by
  have hversion : s.placedVersion = .ok mv := by rw [State.placedVersion, hmx]
  simp only [bodyMaskSelect, State.checkedVersion_eq_ok.mpr hv, hversion, hg]

/-- MASK_SELECT as the last stage of a command. Its outcome is stated by what it may change, since its scores are long to
evaluate. -/
theorem runStages_maskSelect {mv : Version} {g : Grid} (hmx : s.mx = .placed mv) (hg : s.readGrid mv = some g)
    (hs : s.CellsOk) : ∃ t, runStages [bodyMaskSelect] s = .next t ∧ EndsMasked mv s t := by
  have hcells := select_cellsOk hmx hg hs
  exact ⟨(s.select mv g).complete, runStages_ok (bodyMaskSelect_of_placed hv hmx hg), rfl, hcells⟩

/-- The matrix stages need the codewords only: MX_BUILD gives the cells, in every MXSTATE (R218). -/
theorem runStages_matrix {d e : List Byte} (hd : s.readBuffer .data (capacity v s.level).dataCount = some d)
    (he : s.readBuffer .ec (capacity v s.level).ecCount = some e) :
    ∃ t, runStages [bodyMxBuild, bodyMxPlace, bodyMaskSelect] s = .next t ∧ EndsMasked v s t := by
  have hbuild := bodyMxBuild_of_supports hv
  have hbuilt := bodyMxBuild_cellsOk hbuild
  have hplace := bodyMxPlace_of_built (s := mxBuilt s v) hv rfl hbuilt hd he
  have hplaced := bodyMxPlace_cellsOk hplace hbuilt
  have hread : (mxPlaced (mxBuilt s v) v d e).readGrid v = some (placedGrid v d e) :=
    readGrid_writeGrid (mxBuilt s v) (Grid.rect_mxplace (mxbuild_rect v) _ _)
  obtain ⟨t, hselect, ht, hcells⟩ := runStages_maskSelect (s := mxPlaced (mxBuilt s v) v d e) hv rfl hread hplaced
  exact ⟨t, by rw [runStages_ok hbuild, runStages_ok hplace, hselect], ht, hcells⟩

/-- After BS_BUILD the stages of ENCODE need the data codewords only. -/
theorem runStages_afterBsBuild {d : List Byte} (hd : s.readBuffer .data (capacity v s.level).dataCount = some d) :
    ∃ t, runStages [bodyRsEnc false, bodyMxBuild, bodyMxPlace, bodyMaskSelect] s = .next t ∧
      EndsMasked v (rsEncoded s d (capacity v s.level).ecCount) t := by
  obtain ⟨-, hle, -, -⟩ := capacity_bounds v s.level
  have hec := readBuffer_writeBuffer s .ec (rsrem d (capacity v s.level).ecCount)
  rw [rsrem_length] at hec
  have hdata := (readBuffer_data_writeBuffer_ec s (hle.trans (by decide)) (rsrem d (capacity v s.level).ecCount)).trans hd
  obtain ⟨t, hmatrix, ht⟩ := runStages_matrix (s := rsEncoded s d (capacity v s.level).ecCount) hv hdata hec
  exact ⟨t, (runStages_ok (bodyRsEnc_of_read hv hd)).trans hmatrix, ht⟩

/-- ENCODE of a payload that fits: the codewords as BS_BUILD and RS_ENC leave them, then the matrix stages (R272). -/
theorem execEncode_of_holds {p : List Byte} (hp : p.length = s.arg0.toNat)
    (hfit : 12 + 8 * s.arg0.toNat ≤ 8 * (capacity v s.level).dataCount) (ht : holds s 0x100 p) :
    ∃ t, exec .encode s = .next t ∧ EndsMasked v (rsEncoded (bsBuilt s p (capacity v s.level).dataCount)
      (dataCodewords p (capacity v s.level).dataCount) (capacity v s.level).ecCount) t := by
  have hdata := readBuffer_writeBuffer s .data (dataCodewords p (capacity v s.level).dataCount)
  rw [dataCodewords_length] at hdata
  obtain ⟨t, hrest, ht'⟩ := runStages_afterBsBuild (s := bsBuilt s p (capacity v s.level).dataCount) hv hdata
  exact ⟨t, (runStages_ok (bodyBsBuild_of_holds hv hp hfit ht)).trans hrest, ht'⟩

end

/-- Two rows of codewords in DATA and EC change no other byte below MATRIX. -/
theorem byteAt_of_codewords {s t : State} {d e : List Byte} (hd : d.length ≤ 64) (he : e.length ≤ 64)
    (hmem : t.mem = (s.mem.setAll 0x200 d).setAll 0x240 e) {a : Nat} (ha : a < 0x400) :
    t.byteAt a = if 0x200 ≤ a ∧ a < 0x200 + d.length then d[a - 0x200]?
      else if 0x240 ≤ a ∧ a < 0x240 + e.length then e[a - 0x240]? else s.byteAt a := by
  have hregion : regionOf a ≠ .window .matrix := fun h => by
    obtain ⟨hlo, -⟩ := regionOf_window.mp h
    simp only [BufName.windowBase] at hlo
    omega
  have hdata : storesAt s { s with mem := s.mem.setAll 0x200 d } 0x200 d :=
    storesAt_of_setAll rfl rfl (by decide) (by omega)
  have hec : storesAt { s with mem := s.mem.setAll 0x200 d } { s with mem := t.mem } 0x240 e :=
    storesAt_of_setAll hmem rfl (by decide) (by omega)
  rw [byteAt_of_not_matrix (s := { s with mem := t.mem }) (t := t) rfl hregion, hec a, hdata a]
  by_cases hin : 0x200 ≤ a ∧ a < 0x200 + d.length
  · rw [if_neg (by omega), if_pos hin, if_pos hin]
  · rw [if_neg hin, if_neg hin]

/-- Settles O55: ENCODE's first stage fails or its five stages succeed. -/
theorem encodeCompletesFromAnyState : Obligations.EncodeCompletesFromAnyState := by
  refine fun s => ⟨fun v hv => ⟨fun hlong => runStages_error (bodyBsBuild_of_tooLong hv hlong),
    fun hfit p hp ht => ?_, fun hfit ht => runStages_uninit (bodyBsBuild_of_lacks hv hfit ht)⟩,
    fun h => runStages_error (bodyBsBuild_of_unsupported h)⟩
  obtain ⟨-, hd, -, he⟩ := capacity_bounds v s.level
  obtain ⟨t, hexec, hstate, hcells⟩ := execEncode_of_holds hv hp hfit ht
  have hmem : t.mem = (s.mem.setAll 0x200 (dataCodewords p (capacity v s.level).dataCount)).setAll 0x240
      (rsrem (dataCodewords p (capacity v s.level).dataCount) (capacity v s.level).ecCount) := congrArg State.mem hstate
  refine ⟨t, hexec, hstate.trans ?_, hcells, fun a ha => ?_⟩
  · simp only [hmem, rsEncoded, bsBuilt]
    rfl
  · have hbytes := byteAt_of_codewords (by rw [dataCodewords_length]; omega) (by rw [rsrem_length]; omega) hmem ha
    simpa only [dataCodewords_length, rsrem_length] using hbytes

end Sys2Proof.Proofs
end

section
/-! The table commands TBL_CAP, TBL_GEOM and TBL_FMT (R185 to R187), and the rules of the tables they read: the derivation
of the format words (R184) and the consistency of the rows (R188). -/

namespace Sys2Proof.Proofs

open Sys2Proof Sys2Proof.Machine Sys2Proof.Spec

/-! ### The format words (R183, R184) -/

/-- Settles O39: the derivation gives the eight words of each level. -/
theorem formatWordsSatisfyTheirDerivation : Obligations.FormatWordsSatisfyTheirDerivation := by
  intro l m
  revert m
  cases l <;> decide

/-- The level that a format word shows: its top two data bits, the XOR mask taken off, are CONFIG.ECC with its low bit
inverted (R184). -/
def shownLevel (f : BitVec 15) : EccLevel := EccLevel.ofCode (f.extractLsb' 13 2 ^^^ 0b10#2 ^^^ 0b01#2)

/-- The mask that a format word shows: its low three data bits, the XOR mask taken off (R184). -/
def shownMask (f : BitVec 15) : BitVec 3 := f.extractLsb' 10 3 ^^^ 0b101#3

/-- A format word shows the level and the mask it stands for. -/
theorem shown_formatWord (l : EccLevel) (m : BitVec 3) :
    shownLevel (formatWord l m) = l ∧ shownMask (formatWord l m) = m := by
  revert m
  cases l <;> decide

theorem formatWord_inj {l l' : EccLevel} {m m' : BitVec 3} (h : formatWord l m = formatWord l' m') :
    l = l' ∧ m = m' := by
  obtain ⟨hl, hm⟩ := shown_formatWord l m
  obtain ⟨hl', hm'⟩ := shown_formatWord l' m'
  exact ⟨by rw [← hl, h, hl'], by rw [← hm, h, hm']⟩

/-! ### The capacity and geometry tables (R180 to R182) -/

theorem capacity_total (v : Version) (l : EccLevel) : (capacity v l).total = totalCodewords v := by
  cases v <;> cases l <;> rfl

/-- The codewords and the remainder bits fill the data cells (R188). -/
theorem supplyLength_eq_dataCells (v : Version) : supplyLength v = dataCells v := by cases v <;> rfl

/-- Settles O40: T is the version's, the supply is as long as the data cells, D is at least 9, and a format word shows its
level and mask. -/
theorem tablesAreConsistent : Obligations.TablesAreConsistent := by
  refine ⟨fun v l => ?_, fun _ _ _ _ => formatWord_inj⟩
  obtain ⟨hd, -, -, -⟩ := capacity_bounds v l
  rw [capacity_total]
  exact ⟨dataCount_add_ecCount v l, supplyLength_eq_dataCells v, by omega⟩

/-- A row of the spec's table is the model's row of its version and level (R180). -/
theorem capacity_of_mem_capacityRows {v : Version} {l : EccLevel} {tt d e b : Nat}
    (h : (v, l, tt, d, e, b) ∈ capacityRows) : capacity v l = ⟨tt, d, e, b⟩ := by
  have hrows : ∀ r ∈ capacityRows, capacity r.1 r.2.1 = ⟨r.2.2.1, r.2.2.2.1, r.2.2.2.2.1, r.2.2.2.2.2⟩ := by decide
  exact hrows _ h

/-! ### The packed words (R185, R186) -/

theorem capacityWord_eq_ofNat {cap : Capacity} (ht : cap.total < 2 ^ 8) (hd : cap.dataCount < 2 ^ 8)
    (he : cap.ecCount < 2 ^ 8) : capacityWord cap =
      BitVec.ofNat 32 (cap.blocks * 2 ^ 24 + cap.ecCount * 2 ^ 16 + cap.dataCount * 2 ^ 8 + cap.total) := by
  apply BitVec.eq_of_toNat_eq
  simp only [capacityWord, BitVec.toNat_append, BitVec.toNat_ofNat, Nat.mod_eq_of_lt ht, Nat.mod_eq_of_lt hd,
    Nat.mod_eq_of_lt he, ← Nat.shiftLeft_add_eq_or_of_lt ht, ← Nat.shiftLeft_add_eq_or_of_lt hd,
    ← Nat.shiftLeft_add_eq_or_of_lt he]
  simp only [Nat.shiftLeft_eq]
  omega

/-- The counts of the table fit the bytes of TBL_CAP's RESULT. -/
theorem capacityWord_capacity (v : Version) (l : EccLevel) : capacityWord (capacity v l) =
    BitVec.ofNat 32 ((capacity v l).blocks * 2 ^ 24 + (capacity v l).ecCount * 2 ^ 16 +
      (capacity v l).dataCount * 2 ^ 8 + (capacity v l).total) := by
  obtain ⟨-, hd, -, he⟩ := capacity_bounds v l
  have ht := (dataCount_add_ecCount v l).trans (capacity_total v l).symm
  exact capacityWord_eq_ofNat (by omega) (by omega) (by omega)

theorem geometryWord_v1 : geometryWord .v1 = BitVec.ofNat 32 (21 + 208 * 2 ^ 20) := rfl

theorem geometryWord_v2 : geometryWord .v2 = BitVec.ofNat 32 (25 + 18 * 2 ^ 8 + 7 * 2 ^ 16 + 359 * 2 ^ 20) := rfl

/-! ### The commands (R185 to R187) -/

theorem checkedVersion_of_unsupported {s : State} (h : unsupported s) :
    s.checkedVersion = .error .unsupportedConfiguration :=
  State.checkedVersion_eq_error.mpr ⟨rfl, h⟩

section
variable {s : State} {v : Version} (hv : supports s v)
include hv

theorem execTblCap_of_supports :
    exec .tblCap s = .next (succeeded { s with result := capacityWord (capacity v s.level) }) :=
  (exec_eq_runStages _ s).trans (runStages_ok (by rw [bodyTblCap, checkedCapacity_of_supports hv]))

theorem execTblGeom_of_supports : exec .tblGeom s = .next (succeeded { s with result := geometryWord v }) :=
  (exec_eq_runStages _ s).trans (runStages_ok (by rw [bodyTblGeom, State.checkedVersion_eq_ok.mpr hv]))

theorem execTblFmt_of_supports (m : BitVec 3) :
    exec (.tblFmt m) s = .next (succeeded { s with result := (formatWord s.level m).setWidth 32 }) :=
  (exec_eq_runStages _ s).trans (runStages_ok (by rw [bodyTblFmt, State.checkedVersion_eq_ok.mpr hv]))

end

section
variable {s : State} (h : unsupported s)
include h

theorem bodyTblCap_of_unsupported : bodyTblCap s = .error .unsupportedConfiguration 0x0B#8 := by
  rw [bodyTblCap, checkedCapacity_of_unsupported h]

theorem bodyTblGeom_of_unsupported : bodyTblGeom s = .error .unsupportedConfiguration 0x0C#8 := by
  rw [bodyTblGeom, checkedVersion_of_unsupported h]

theorem bodyTblFmt_of_unsupported (m : BitVec 3) : bodyTblFmt m s = .error .unsupportedConfiguration 0x0D#8 := by
  rw [bodyTblFmt, checkedVersion_of_unsupported h]

end

/-- Settles O38: each command by its checked operand, and RESULT by its packed word. -/
theorem tableCommandsPackTheirResults : Obligations.TableCommandsPackTheirResults := by
  refine fun s => ⟨fun v l tt d e b hrow hv hl => ?_, fun hv => ?_, fun hv => ?_, fun v m hv => ?_, fun h => ?_⟩
  · have hlevel : s.level = l := by rw [State.level, hl, EccLevel.ofCode_code]
    rw [execTblCap_of_supports hv, capacityWord_capacity, hlevel, capacity_of_mem_capacityRows hrow]
  · rw [execTblGeom_of_supports hv, geometryWord_v1]
  · rw [execTblGeom_of_supports hv, geometryWord_v2]
  · exact execTblFmt_of_supports hv m
  · exact ⟨runStages_error (bodyTblCap_of_unsupported h), runStages_error (bodyTblGeom_of_unsupported h),
      fun m => runStages_error (bodyTblFmt_of_unsupported h m)⟩

end Sys2Proof.Proofs
end

section
/-! The function patterns of the built matrix (R211 to R217) and the traversal of its free cells (R219, R223). -/

namespace Sys2Proof.Proofs

open Sys2Proof Sys2Proof.Machine Sys2Proof.Spec

/-! ### The function patterns, one by one -/

/-- The three finder patterns, cell by cell (R211). -/
theorem builtCell_finder (v : Version) : ∀ corner ∈ [(0, 0), (0, v.size - 7), (v.size - 7, 0)], ∀ i, i < 7 → ∀ j, j < 7 →
    builtCell v (corner.1 + i) (corner.2 + j) =
      .reserved (i == 0 || i == 6 || j == 0 || j == 6 || (2 ≤ i && i ≤ 4 && 2 ≤ j && j ≤ 4)) := by
  cases v <;> decide

/-- The six strips of the separators (R212). -/
theorem builtCell_separator (v : Version) : ∀ k, k < 8 →
    builtCell v 7 k = .reserved false ∧ builtCell v k 7 = .reserved false ∧
      builtCell v 7 (v.size - 8 + k) = .reserved false ∧ builtCell v k (v.size - 8) = .reserved false ∧
      builtCell v (v.size - 8) k = .reserved false ∧ builtCell v (v.size - 8 + k) 7 = .reserved false := by
  cases v <;> decide

/-- The timing patterns alternate along row 6 and column 6 (R213). -/
theorem builtCell_timing (v : Version) : ∀ c, c < v.size - 8 → 8 ≤ c →
    builtCell v 6 c = .reserved (c % 2 == 0) ∧ builtCell v c 6 = .reserved (c % 2 == 0) := by
  cases v <;> decide

/-- The alignment pattern of version 2 (R214). -/
theorem builtCell_alignment : ∀ i, i < 5 → ∀ j, j < 5 →
    builtCell .v2 (16 + i) (16 + j) = .reserved (i == 0 || i == 4 || j == 0 || j == 4 || (i == 2 && j == 2)) := by
  decide

/-- The dark module (R215). -/
theorem builtCell_darkModule (v : Version) : builtCell v (v.size - 8) 8 = .reserved true := by
  cases v <;> rfl

/-! ### The format cells (R216) -/

theorem formatCells1_getElem? : ∀ k, k < 15 → formatCells1[k]? = some (formatCell1 k) := by decide

theorem formatCells2_getElem? (v : Version) : ∀ k, k < 15 → (formatCells2 v.size)[k]? = some (formatCell2 v.size k) := by
  cases v <;> decide

theorem mem_formatCells {v : Version} {k r c : Nat} (hk : k < 15)
    (h : formatCells1[k]? = some (r, c) ∨ (formatCells2 v.size)[k]? = some (r, c)) :
    (r, c) ∈ [formatCell1 k, formatCell2 v.size k] := by
  simpa [formatCells1_getElem? k hk, formatCells2_getElem? v k hk, eq_comm] using h

theorem builtCell_formatCell (v : Version) : ∀ k, k < 15 → ∀ cell ∈ [formatCell1 k, formatCell2 v.size k],
    builtCell v cell.1 cell.2 = .reserved false ∧ formatBitAt v.size cell.1 cell.2 = some k := by
  cases v <;> decide

/-! ### The counts (R223) -/

theorem count_unset (v : Version) : countCells v.size (fun r c => builtCell v r c == .unset) = dataCells v := by
  cases v <;> decide +kernel

theorem count_reserved (v : Version) :
    countCells v.size (fun r c => (builtCell v r c).isReserved) = (match v with | .v1 => 233 | .v2 => 266) := by
  cases v <;> decide +kernel

theorem count_format (v : Version) : countCells v.size (fun r c => (formatBitAt v.size r c).isSome) = 30 := by
  cases v <;> decide +kernel

/-- Settles O41, pattern by pattern. -/
theorem functionPatternsStandWhereTheRulesSay : Obligations.FunctionPatternsStandWhereTheRulesSay := by
  refine fun v => ⟨fun r0 c0 h i j hi hj => builtCell_finder v (r0, c0) h i hi j hj, builtCell_separator v,
    builtCell_timing v, ?_, builtCell_darkModule v, fun k r c hk h => ?_, count_reserved v,
    (count_unset v).trans (by cases v <;> rfl), count_format v⟩
  · rintro rfl i j hi hj
    exact builtCell_alignment i hi j hj
  · exact builtCell_formatCell v k hk (r, c) (mem_formatCells hk h)

/-! ### The traversal (R219) -/

/-- A pair whose right column the model calls upward has an even place among the pairs. -/
theorem pairColumns_upward (v : Version) :
    ∀ p ∈ (pairColumns v).zipIdx, (p.1 + 1) / 2 % 2 = 0 ↔ p.2 % 2 = 0 := by
  cases v <;> decide

theorem zigzag_eq_zigzagPath (v : Version) : zigzag v.size = zigzagPath v :=
  calc zigzag v.size
    _ = ((pairColumns v).zipIdx.map Prod.fst).flatMap (pairCells v.size) := by rw [zigzag_size, List.zipIdx_map_fst]
    _ = (pairColumns v).zipIdx.flatMap (fun p => pairCells v.size p.1) := List.flatMap_map ..
    _ = zigzagPath v := List.flatMap_congr fun p hp => by
      simp only [pairCells, beq_iff_eq, pairColumns_upward v p hp]

theorem isFree_eq_notReserved (g : Grid) : g.isFree = notReserved g := by
  funext p
  simp only [Grid.isFree, notReserved]
  rcases g.cell? p.1 p.2 with _ | _ | _ | _ <;> rfl

theorem placementOrder_eq_filter (v : Version) (g : Grid) :
    placementOrder v.size g = (zigzagPath v).filter (notReserved g) := by
  rw [placementOrder, zigzag_eq_zigzagPath, isFree_eq_notReserved]

/-! ### Landmarks of the order on the built matrix -/

/-- The order of version 1 turns under the format area, and goes on in column 5 after column 7 (L2.6.3). -/
theorem placementOrder_v1_turns : let order := placementOrder Version.v1.size (mxbuild .v1)
    order[22]? = some (9, 20) ∧ order[23]? = some (9, 19) ∧ order[24]? = some (9, 18) ∧
      order[182]? = some (9, 8) ∧ order[183]? = some (9, 7) ∧ order[184]? = some (9, 5) := by
  decide +kernel

theorem placementOrder_v2_column5 :
    (placementOrder Version.v2.size (mxbuild .v2)).findIdx? (fun p => p.2 == 5) = some 311 := by
  decide +kernel

theorem placementOrder_take (v : Version) : (placementOrder v.size (mxbuild v)).take 4 =
    [(v.size - 1, v.size - 1), (v.size - 1, v.size - 2), (v.size - 2, v.size - 1), (v.size - 2, v.size - 2)] := by
  cases v <;> decide +kernel

theorem placementOrder_getLast? (v : Version) : (placementOrder v.size (mxbuild v)).getLast? =
    some (match v with | .v1 => (12, 0) | .v2 => (16, 0)) := by
  cases v <;> decide +kernel

/-- Settles O42: the model's path is the traversal of R219, which reaches every free cell once. -/
theorem zigzagOrderListsEveryFreeCellOnce : Obligations.ZigzagOrderListsEveryFreeCellOnce := by
  intro v order
  refine ⟨placementOrder_eq_filter v, ?_, placementOrder_nodup v _,
    (placementOrder_mxbuild_length v).trans (by cases v <;> rfl), fun r c hr hc => ?_, fun r c h => ?_,
    placementOrder_take v, placementOrder_getLast? v⟩
  · cases v
    · exact placementOrder_v1_turns
    · exact placementOrder_v2_column5
  · exact mem_placementOrder_mxbuild.trans ⟨fun ⟨_, _, h⟩ => h, fun h => ⟨hr, hc, h⟩⟩
  · obtain ⟨hr, hc, -⟩ := mem_placementOrder_mxbuild.mp h
    exact ⟨hr, hc⟩

end Sys2Proof.Proofs
end

section
/-! The commands MX_BUILD and MX_PLACE (R218, R222): what each leaves in every cell of MATRIX, and the errors they report. -/

namespace Sys2Proof.Proofs

open Sys2Proof Sys2Proof.Machine Sys2Proof.Spec

/-! ### Cells as the host sees them (R40, R45) -/

theorem toByte_eq_cellByte (k : Cell) : k.toByte = cellByte k := by
  rcases k with _ | (_ | _) | (_ | _) <;> rfl

theorem byteAt_of_cell {s : State} {k : Nat} {cell : Cell} (h : s.matrix.toList[k]? = some (some cell)) :
    s.byteAt (0x400 + k) = some (cellByte cell) := by
  obtain ⟨hk, hcell⟩ := List.getElem?_eq_some_iff.mp h
  rw [Vector.length_toList] at hk
  rw [Vector.getElem_toList] at hcell
  rw [State.byteAt_matrix s hk, hcell, Option.map_some, toByte_eq_cellByte]

theorem byteAt_cellOffset {s : State} {v : Version} {r c : Nat} {cell : Cell}
    (h : s.matrix.toList[r * v.size + c]? = some (some cell)) : s.byteAt (cellOffset v r c) = some (cellByte cell) := by
  rw [cellOffset, Nat.add_assoc]
  exact byteAt_of_cell h

/-- A byte that shows no cell, or the same cell as before, is the same byte. -/
theorem byteAt_of_sameCell {s t : State} {a : Nat} (hmem : t.mem = s.mem)
    (h : 0x400 ≤ a → t.matrix.toList[a - 0x400]? = s.matrix.toList[a - 0x400]?) : t.byteAt a = s.byteAt a := by
  by_cases ha : regionOf a = .window .matrix
  · obtain ⟨hlo, -⟩ := regionOf_window.mp ha
    simp only [State.byteAt, ha]
    split
    · next hk =>
      have hcell := h hlo
      rw [List.getElem?_eq_getElem (by rwa [Vector.length_toList]),
        List.getElem?_eq_getElem (by rwa [Vector.length_toList]), Option.some.injEq,
        Vector.getElem_toList, Vector.getElem_toList] at hcell
      rw [hcell]
    · rfl
  · exact byteAt_of_not_matrix hmem ha

/-! ### MX_BUILD (R218) -/

section
variable {s : State} {v : Version} (h : s.matrix.toList = (mxbuildCells v).map some)
include h

theorem byteAt_builtCell {r c : Nat} (hr : r < v.size) (hc : c < v.size) :
    s.byteAt (cellOffset v r c) = some (cellByte (builtCell v r c)) := by
  obtain ⟨-, hcell⟩ := State.readGrid_eq_some (readGrid_of_built h)
  exact byteAt_cellOffset (by rw [hcell r c hr hc, mxbuild_cell? hr hc])

theorem byteAt_past_built {k : Nat} (hlo : v.size * v.size ≤ k) (hhi : k < 625) : s.byteAt (0x400 + k) = some 0x00#8 :=
  byteAt_of_cell (getElem?_of_built h hlo hhi)

end

theorem bodyMxBuild_of_unsupported {s : State} (h : unsupported s) :
    bodyMxBuild s = .error .unsupportedConfiguration 0x07#8 := by
  rw [bodyMxBuild, checkedVersion_of_unsupported h]

/-- Settles O43: the state after MX_BUILD's stage shows mxbuild(V), and the bytes below MATRIX are no cells. -/
theorem mxBuildBuildsInEveryState : Obligations.MxBuildBuildsInEveryState := by
  refine fun s => ⟨fun v hv => ?_, fun h => runStages_error (bodyMxBuild_of_unsupported h)⟩
  have hbody := bodyMxBuild_of_supports hv
  have hbuilt : (mxBuilt s v).complete.matrix.toList = (mxbuildCells v).map some := bodyMxBuild_cellsOk hbody
  have hmxstat : (mxBuilt s v).complete.readReg .mxstat = (MxState.built v).word := rfl
  exact ⟨(mxBuilt s v).complete, runStages_ok hbody, rfl, hmxstat.trans (by cases v <;> rfl),
    fun r c => byteAt_builtCell hbuilt, fun k => byteAt_past_built hbuilt,
    fun a ha => byteAt_of_sameCell rfl (by omega)⟩

/-! ### The bits of the supply (R220) -/

theorem bitsOf_getElem? {vs : List Byte} {k : Nat} (h : k < 8 * vs.length) :
    (bitsOf vs)[k]? = some ((vs.getD (k / 8) 0x00#8).getLsbD (7 - k % 8)) := by
  induction vs generalizing k with
  | nil => exact absurd h (Nat.not_lt_zero k)
  | cons b bs ih =>
    have hcons : bitsOf (b :: bs) = bits8 b ++ bitsOf bs := rfl
    have hlen : (bits8 b).length = 8 := rfl
    rw [hcons]
    by_cases hk : k < 8
    · rw [List.getElem?_append_left (hlen ▸ hk), Nat.div_eq_of_lt hk, Nat.mod_eq_of_lt hk]
      interval_cases k <;> rfl
    · have hlast : k - 8 < 8 * bs.length := by rw [List.length_cons] at h; omega
      rw [List.getElem?_append_right (by omega), hlen, ih hlast, show k / 8 = (k - 8) / 8 + 1 by omega,
        show (k - 8) % 8 = k % 8 by omega, List.getD_cons_succ]

/-- Bit k of the supply is a bit of DATA, then of EC, then 0. -/
theorem bitSupply_getElem? {v : Version} {d e : List Byte} {k : Nat} (h : k < (bitSupply v d e).length) :
    (bitSupply v d e)[k]? = some (supplyBit d e k) := by
  simp only [bitSupply, List.length_append, bitsOf_length, List.length_replicate] at h
  rw [bitSupply, List.append_assoc, supplyBit]
  by_cases hd : k < 8 * d.length
  · rw [if_pos hd, List.getElem?_append_left (by rwa [bitsOf_length]), bitsOf_getElem? hd]
  rw [if_neg hd, List.getElem?_append_right (by rw [bitsOf_length]; omega), bitsOf_length]
  by_cases he : k < 8 * (d.length + e.length)
  · rw [if_pos he, List.getElem?_append_left (by rw [bitsOf_length]; omega), bitsOf_getElem? (by omega),
      show (k - 8 * d.length) / 8 = k / 8 - d.length by omega, show (k - 8 * d.length) % 8 = k % 8 by omega]
  · rw [if_neg he, List.getElem?_append_right (by rw [bitsOf_length]; omega), bitsOf_length,
      List.getElem?_replicate_of_lt (by omega)]

/-! ### MX_PLACE (R222) -/

section
variable {v : Version} {l : EccLevel} {d e : List Byte}

/-- Cell k of the order gets bit k of the supply (R221). -/
theorem placedGrid_cell?_order (hd : d.length = (capacity v l).dataCount) (he : e.length = (capacity v l).ecCount)
    {k r c : Nat} (hk : (placementOrder v.size (mxbuild v))[k]? = some (r, c)) :
    (placedGrid v d e).cell? r c = some (.data (supplyBit d e k)) := by
  obtain ⟨hlt, -⟩ := List.getElem?_eq_some_iff.mp hk
  rw [placementOrder_mxbuild_length, ← bitSupply_length hd he] at hlt
  obtain ⟨hr, hc, -⟩ := mem_placementOrder_mxbuild.mp (List.mem_of_getElem? hk)
  rw [placedGrid, mxplace_cell?_getElem (placementOrder_nodup v _) hk (bitSupply_getElem? hlt), mxbuild_cell? hr hc,
    Option.map_some]

theorem placedGrid_cell?_reserved {r c : Nat} (hr : r < v.size) (hc : c < v.size) (h : builtCell v r c ≠ .unset) :
    (placedGrid v d e).cell? r c = some (builtCell v r c) := by
  rw [placedGrid, mxplace_cell?_of_notMem (fun hmem => h (mem_placementOrder_mxbuild.mp hmem).2.2), mxbuild_cell? hr hc]

theorem placedGrid_rect : (placedGrid v d e).Rect v.size v.size := Grid.rect_mxplace (mxbuild_rect v) _ _

end

/-- Only an Unset cell reads 0 (R40). -/
theorem cellByte_eq_unset {k : Cell} : cellByte k = cellByte .unset ↔ k = .unset := by
  rcases k with _ | (_ | _) | (_ | _) <;> decide

section
variable {s : State} {v mv : Version}

theorem mxPlaced_getElem? {d e : List Byte} {r c : Nat} (hr : r < v.size) (hc : c < v.size) :
    (mxPlaced s v d e).matrix.toList[r * v.size + c]? = some ((placedGrid v d e).cell? r c) :=
  (State.writeGrid_getElem? placedGrid_rect).1 r c hr hc

theorem mxPlaced_byteAt_past {d e : List Byte} {a : Nat} (ha : a < 0x400 ∨ 0x400 + v.size * v.size ≤ a) :
    (mxPlaced s v d e).byteAt a = s.byteAt a :=
  byteAt_of_sameCell rfl fun hlo => (State.writeGrid_getElem? placedGrid_rect).2 (a - 0x400) (by omega)

/-- What MX_PLACE finds on a built matrix, whatever CONFIG's version is. -/
theorem builtVersion_and_readGrid (hmx : s.mx = .built mv) (hs : s.CellsOk) :
    s.builtVersion = .ok mv ∧ s.readGrid mv = some (mxbuild mv) := by
  have hbuilt : s.matrix.toList = (mxbuildCells mv).map some := by simpa only [State.CellsOk, hmx] using hs
  exact ⟨by rw [State.builtVersion, hmx], readGrid_of_built hbuilt⟩

theorem bodyMxPlace_of_unsupported (h : unsupported s) : bodyMxPlace s = .error .unsupportedConfiguration 0x08#8 := by
  rw [bodyMxPlace, checkedVersion_of_unsupported h]

theorem builtVersion_of_not_built (h : ∀ mv, s.mx ≠ .built mv) : s.builtVersion = .error .invalidState := by
  rw [State.builtVersion]
  cases hmx : s.mx with
  | built mv => exact absurd hmx (h mv)
  | _ => rfl

section
variable (hv : supports s v)
include hv

theorem bodyMxPlace_of_not_built (h : ∀ mv, s.mx ≠ .built mv) : bodyMxPlace s = .error .invalidState 0x08#8 := by
  simp only [bodyMxPlace, State.checkedVersion_eq_ok.mpr hv, builtVersion_of_not_built h]

/-- More free cells than CONFIG's supply has bits (R222). -/
theorem bodyMxPlace_of_overflow (hmx : s.mx = .built mv) (hs : s.CellsOk) (h : supplyLength v < supplyLength mv) :
    bodyMxPlace s = .error .layoutOverflow 0x08#8 := by
  obtain ⟨hversion, hgrid⟩ := builtVersion_and_readGrid hmx hs
  simp only [bodyMxPlace, State.checkedVersion_eq_ok.mpr hv, hversion, hgrid, placementOrder_mxbuild_length, if_pos h]

/-- Fewer free cells than CONFIG's supply has bits (R222). -/
theorem bodyMxPlace_of_underflow (hmx : s.mx = .built mv) (hs : s.CellsOk) (h : supplyLength mv < supplyLength v) :
    bodyMxPlace s = .error .layoutUnderflow 0x08#8 := by
  obtain ⟨hversion, hgrid⟩ := builtVersion_and_readGrid hmx hs
  simp only [bodyMxPlace, State.checkedVersion_eq_ok.mpr hv, hversion, hgrid, placementOrder_mxbuild_length,
    if_neg h.not_gt, gt_iff_lt, if_pos h]

theorem bodyMxPlace_of_holds {d e : List Byte} (hmx : s.mx = .built v) (hs : s.CellsOk)
    (hd : d.length = (capacity v s.level).dataCount) (he : e.length = (capacity v s.level).ecCount)
    (hdata : holds s 0x200 d) (hec : holds s 0x240 e) : bodyMxPlace s = .ok (mxPlaced s v d e) := by
  obtain ⟨-, hdle, -, hele⟩ := capacity_bounds v s.level
  exact bodyMxPlace_of_built hv hmx hs
    (readBuffer_of_holds (by decide) (by simp only [BufName.windowBase]; omega) hd hdata)
    (readBuffer_of_holds (by decide) (by simp only [BufName.windowBase]; omega) he hec)

theorem bodyMxPlace_of_lacks (hmx : s.mx = .built v) (hs : s.CellsOk)
    (h : lacks s 0x200 (capacity v s.level).dataCount ∨ lacks s 0x240 (capacity v s.level).ecCount) :
    bodyMxPlace s = .uninit := by
  obtain ⟨-, hdle, -, hele⟩ := capacity_bounds v s.level
  obtain ⟨hversion, hgrid⟩ := builtVersion_and_readGrid hmx hs
  simp only [bodyMxPlace, State.checkedVersion_eq_ok.mpr hv, hversion, hgrid, placementOrder_mxbuild_length,
    lt_self_iff_false, if_false]
  obtain h | h := h
  · have hread : s.readBuffer .data (capacity v s.level).dataCount = none :=
      readBuffer_of_lacks (by decide) (by simp only [BufName.windowBase]; omega) h
    simp only [hread]
  · have hread : s.readBuffer .ec (capacity v s.level).ecCount = none :=
      readBuffer_of_lacks (by decide) (by simp only [BufName.windowBase]; omega) h
    cases s.readBuffer .data (capacity v s.level).dataCount <;> simp only [hread]

end

end

/-- Settles O44: the matrix shows the placed grid, and a free cell is in the order. -/
theorem mxPlacePlacesTheBitSupply : Obligations.MxPlacePlacesTheBitSupply := by
  intro s v hv hmx hs cap order
  refine ⟨fun d e hd he hdata hec => ?_, fun h => runStages_uninit (bodyMxPlace_of_lacks hv hmx hs h)⟩
  have hcell {r c : Nat} {k : Cell} (hr : r < v.size) (hc : c < v.size) (h : (placedGrid v d e).cell? r c = some k) :
      (mxPlaced s v d e).complete.byteAt (cellOffset v r c) = some (cellByte k) :=
    byteAt_cellOffset ((mxPlaced_getElem? hr hc).trans (congrArg some h))
  have hplaced {k r c : Nat} (hk : order[k]? = some (r, c)) :
      (mxPlaced s v d e).complete.byteAt (cellOffset v r c) = some (cellByte (.data (supplyBit d e k))) := by
    obtain ⟨hr, hc, -⟩ := mem_placementOrder_mxbuild.mp (List.mem_of_getElem? hk)
    exact hcell hr hc (placedGrid_cell?_order hd he hk)
  have hreserved {r c : Nat} (hr : r < v.size) (hc : c < v.size) (h : builtCell v r c ≠ .unset) :
      (mxPlaced s v d e).complete.byteAt (cellOffset v r c) = some (cellByte (builtCell v r c)) :=
    hcell hr hc (placedGrid_cell?_reserved hr hc h)
  refine ⟨(mxPlaced s v d e).complete, runStages_ok (bodyMxPlace_of_holds hv hmx hs hd he hdata hec), rfl,
    fun k r c => hplaced, fun r c => hreserved, fun r c hr hc => ?_, fun a => mxPlaced_byteAt_past⟩
  by_cases h : builtCell v r c = .unset
  · obtain ⟨k, hk⟩ := List.mem_iff_getElem?.mp (mem_placementOrder_mxbuild.mpr ⟨hr, hc, h⟩)
    simp only [hplaced hk, ne_eq, Option.some.injEq, cellByte_eq_unset, reduceCtorEq, not_false_eq_true]
  · simpa only [hreserved hr hc h, ne_eq, Option.some.injEq, cellByte_eq_unset] using h

/-- Settles O45: each check of MX_PLACE in its order. -/
theorem mxPlaceReportsItsErrors : Obligations.MxPlaceReportsItsErrors := fun _ =>
  ⟨fun h => runStages_error (bodyMxPlace_of_unsupported h),
    fun _ hv h => runStages_error (bodyMxPlace_of_not_built hv h),
    fun hv hmx hs => runStages_error (bodyMxPlace_of_overflow hv hmx hs (by decide)),
    fun hv hmx hs => runStages_error (bodyMxPlace_of_underflow hv hmx hs (by decide))⟩

end Sys2Proof.Proofs
end

section
/-! Masking and scoring as the spec words them: the eight predicates (R240), masking (R241), and the four penalty rules
by the runs, positions and windows of a square picture (R243 to R246). -/

namespace Sys2Proof.Proofs

open Sys2Proof Sys2Proof.Machine Sys2Proof.Spec

/-! ### The predicates and masking (R240, R241) -/

/-- Settles O46: each predicate is its formula's test, and the eight tests pass at (0, 0). -/
theorem maskPredicatesAreTheEightFormulas : Obligations.MaskPredicatesAreTheEightFormulas :=
  ⟨fun _ _ => ⟨beq_iff_eq, beq_iff_eq, beq_iff_eq, beq_iff_eq, beq_iff_eq, beq_iff_eq, beq_iff_eq, beq_iff_eq⟩,
    by decide⟩

theorem mapFrom_leftInverse {α β : Type} {f : Nat → β → α} {f' : Nat → α → β} (h : ∀ k x, f k (f' k x) = x) (i : Nat)
    (l : List α) : mapFrom f i (mapFrom f' i l) = l := by
  induction l generalizing i with
  | nil => rfl
  | cons x xs ih => rw [mapFrom, mapFrom, h, ih]

theorem mapCells_leftInverse {f f' : Nat → Nat → Cell → Cell} (h : ∀ r c k, f r c (f' r c k) = k) (g : Grid) :
    (g.mapCells f').mapCells f = g :=
  mapFrom_leftInverse (fun r => mapFrom_leftInverse (h r) 0) 0 g

theorem maskWith_maskWith (flip : Bool) (k : Cell) : (k.maskWith flip).maskWith flip = k := by
  cases k with
  | data b => rw [Cell.maskWith, Cell.maskWith, Bool.xor_assoc, Bool.xor_self, Bool.xor_false]
  | _ => rfl

theorem maskWith_of_not_data {k : Cell} (h : ∀ b, k ≠ .data b) (flip : Bool) : k.maskWith flip = k := by
  cases k with
  | data b => exact absurd rfl (h b)
  | _ => rfl

/-- Settles O47: masking maps each cell by itself, and flipping a cell twice gives it back. -/
theorem maskingFlipsDataCellsAndIsAnInvolution : Obligations.MaskingFlipsDataCellsAndIsAnInvolution := by
  refine fun g m => ⟨fun r c b h => ?_, fun r c k h hk => ?_, fun r c h => ?_,
    mapCells_leftInverse (fun r c => maskWith_maskWith (maskPredicate m r c)) g⟩
  · rw [applyMask_cell?, h, Option.map_some, Cell.maskWith]
  · rw [applyMask_cell?, h, Option.map_some, maskWith_of_not_data hk]
  · rw [applyMask_cell?, h, Option.map_none]

/-! ### Runs (R243) -/

/-- A row of equal modules is one run. -/
theorem splitBy_replicate_succ (b : Bool) (k : Nat) :
    (List.replicate (k + 1) b).splitBy (fun x y => x == y) = [List.replicate (k + 1) b] :=
  List.splitBy_of_isChain (by simp) (List.isChain_replicate_of_rel _ (beq_self_eq_true b))

theorem runScore_replicate_succ (b : Bool) (k : Nat) : runScore (List.replicate (k + 1) b) = runPoints (k + 1) := by
  rw [runScore, splitBy_replicate_succ, List.map_singleton, List.sum_singleton, List.length_replicate, runPoints]

/-- A run ends where the colour changes. -/
theorem runScore_replicate_succ_append {b x : Bool} (hx : x ≠ b) (k : Nat) (xs : List Bool) :
    runScore (List.replicate (k + 1) b ++ x :: xs) = runPoints (k + 1) + runScore (x :: xs) := by
  have hsplit := List.splitBy_append_cons (r := fun a b : Bool => a == b) (l := List.replicate (k + 1) b) (a := x) xs
    (by simpa [List.getLast?_replicate] using hx.symm)
  rw [runScore, hsplit, List.map_append, List.sum_append, ← runScore, ← runScore, runScore_replicate_succ]

/-- The points of a line whose current run holds `k + 1` modules already. -/
theorem runsFrom_eq_runScore (b : Bool) (k : Nat) (l : List Bool) :
    runsFrom b (k + 1) l = runScore (List.replicate (k + 1) b ++ l) := by
  induction l generalizing b k with
  | nil => rw [runsFrom, List.append_nil, runScore_replicate_succ]
  | cons x xs ih =>
    by_cases hx : x = b
    · rw [runsFrom, if_pos (beq_iff_eq.mpr hx), ih, hx, List.replicate_succ', List.append_assoc, List.singleton_append]
    · have hnew : runsFrom x 1 xs = runScore (x :: xs) := ih x 0
      rw [runsFrom, if_neg (mt beq_iff_eq.mp hx), hnew, runScore_replicate_succ_append hx]

theorem lineRuns_eq_runScore (l : List Bool) : lineRuns l = runScore l := by
  cases l with
  | nil => rfl
  | cons b bs => exact runsFrom_eq_runScore b 0 bs

/-! ### Windows (R245) -/

section
variable {seq : List Bool} (hseq : seq.length = 11)
include hseq

/-- A window at `k` equals a sequence of its length when the line from `k` starts with the sequence. -/
theorem windowCount_eq (l : List Bool) :
    windowCount seq l = (List.range (l.length - 10)).countP (fun k => seq.isPrefixOf (l.drop k)) := by
  refine List.countP_congr fun k hk => ?_
  have hlen : 11 ≤ l.length := by
    have := List.mem_range.mp hk
    omega
  rw [List.isPrefixOf_iff_prefix, List.prefix_iff_eq_take, hseq, decide_eq_true hlen, Bool.true_and, beq_iff_eq,
    eq_comm]

/-- The windows of a line are the one at its first module and those of the rest. -/
theorem windowCount_cons (b : Bool) (bs : List Bool) :
    windowCount seq (b :: bs) = (if seq.isPrefixOf (b :: bs) then 1 else 0) + windowCount seq bs := by
  rw [windowCount_eq hseq, windowCount_eq hseq]
  by_cases hlen : bs.length < 10
  · have hshort : ¬ seq.isPrefixOf (b :: bs) = true := fun h => by
      have := (List.isPrefixOf_iff_prefix.mp h).length_le
      rw [List.length_cons] at this
      omega
    rw [if_neg hshort, List.length_cons, show bs.length + 1 - 10 = 0 by omega, show bs.length - 10 = 0 by omega]
    rfl
  · rw [List.length_cons, show bs.length + 1 - 10 = bs.length - 10 + 1 by omega, List.range_succ_eq_map,
      List.countP_cons, List.countP_map, Nat.add_comm]
    rfl

end

theorem lineFinders_eq_windowCounts (l : List Bool) :
    lineFinders l = windowCount sequenceA l + windowCount sequenceA' l := by
  induction l with
  | nil => rfl
  | cons b bs ih =>
    rw [lineFinders, ih, windowCount_cons rfl, windowCount_cons rfl]
    exact Nat.add_add_add_comm _ _ _ _

/-! ### Pictures by their pixels (R242) -/

theorem map_getD_range {α : Type} (l : List α) (d : α) : (List.range l.length).map (fun i => l.getD i d) = l :=
  List.ext_getElem (by simp) (by simp +contextual)

section
variable {rows : List (List Bool)} {n : Nat} (h : square rows n)
include h

/-- Row `r` of a square picture has its width. -/
theorem length_getD_of_square {r : Nat} (hr : r < n) : (rows.getD r []).length = n := by
  obtain ⟨hlen, hrow⟩ := h
  have hr' : r < rows.length := hlen ▸ hr
  rw [← List.getElem_eq_getD (h := hr')]
  exact hrow _ (List.getElem_mem hr')

theorem rows_eq_pixels : rows = (List.range n).map fun r => (List.range n).map fun c => pixel rows r c := by
  conv_lhs => rw [← map_getD_range rows []]
  rw [h.1]
  refine List.map_congr_left fun r hr => ?_
  have hrow := map_getD_range (rows.getD r []) false
  rw [length_getD_of_square h (List.mem_range.mp hr)] at hrow
  exact hrow.symm

theorem linesOf_eq_lines : linesOf rows = lines rows n := by
  have hcols : columnsOf rows = (List.range n).map fun c => (List.range n).map fun r => pixel rows r c := by
    rw [columnsOf, h.1]
    refine List.map_congr_left fun c _ => ?_
    conv_lhs => rw [← map_getD_range rows []]
    rw [List.map_map, h.1]
    rfl
  rw [linesOf, lines, hcols, ← rows_eq_pixels h]

theorem darkCount_eq_countCells : darkCount rows = countCells n (pixel rows) := by
  conv_lhs => rw [rows_eq_pixels h]
  simp only [darkCount, countCells, List.map_map, List.count, Function.comp_def, List.countP_map, beq_true]

end

/-! ### Blocks (R244) -/

/-- The 2 by 2 block at column `c` of two adjacent rows has one colour. -/
def isBlock (top bottom : List Bool) (c : Nat) : Bool :=
  top.getD c false == top.getD (c + 1) false && top.getD c false == bottom.getD c false &&
    top.getD c false == bottom.getD (c + 1) false

/-- The neighbouring pairs of a list are its first pair and those of its tail. -/
theorem range_length_pred {α : Type} (x x' : α) (xs : List α) :
    List.range ((x :: x' :: xs).length - 1) = 0 :: (List.range ((x' :: xs).length - 1)).map (· + 1) :=
  List.range_succ_eq_map

theorem blocksBetween_eq_countP {a b : List Bool} (h : a.length = b.length) :
    blocksBetween a b = (List.range (a.length - 1)).countP (isBlock a b) := by
  fun_induction blocksBetween a b with
  | case1 x x' xs y y' ys ih =>
    rw [ih (Nat.succ.inj h), range_length_pred, List.countP_cons, List.countP_map, Nat.add_comm]
    rfl
  | case2 a b hshort =>
    match a, b with
    | [], _ => rfl
    | [_], _ => rfl
    | x :: x' :: xs, y :: y' :: ys => exact (hshort x x' xs y y' ys rfl rfl).elim

theorem blocksOf_eq_sum (rows : List (List Bool)) :
    blocksOf rows = ((List.range (rows.length - 1)).map fun r =>
      blocksBetween (rows.getD r []) (rows.getD (r + 1) [])).sum := by
  fun_induction blocksOf rows with
  | case1 r r' rest ih =>
    rw [ih, range_length_pred, List.map_cons, List.sum_cons, List.map_map]
    rfl
  | case2 rows hshort =>
    match rows with
    | [] => rfl
    | [_] => rfl
    | r :: r' :: rest => exact (hshort r r' rest rfl).elim

theorem blocksOf_eq_countBlocks {rows : List (List Bool)} {n : Nat} (h : square rows n) :
    blocksOf rows = ((List.range (n - 1)).map fun r =>
      (List.range (n - 1)).countP (isBlock (rows.getD r []) (rows.getD (r + 1) []))).sum := by
  rw [blocksOf_eq_sum, h.1]
  refine congrArg List.sum (List.map_congr_left fun r hr => ?_)
  have hr := List.mem_range.mp hr
  have htop := length_getD_of_square h (r := r) (by omega)
  have hbottom := length_getD_of_square h (r := r + 1) (by omega)
  rw [blocksBetween_eq_countP (htop.trans hbottom.symm), htop]

/-! ### Balance (R246) -/

theorem distance_eq_natAbs (a b : Nat) : distance a b = ((a : Int) - b).natAbs := by
  rw [distance]
  omega

/-- Settles O48: a picture's lines are `lines`, and each count of the model is that of the rule on every line, pair of
rows or module. -/
theorem penaltyRulesCountWhatTheySay : Obligations.PenaltyRulesCountWhatTheySay := by
  refine fun rows n h => ⟨?_, congrArg (3 * ·) (blocksOf_eq_countBlocks h), ?_, ?_⟩
  · rw [pen1Of, linesOf_eq_lines h, List.map_congr_left fun l _ => lineRuns_eq_runScore l]
  · rw [pen3Of, linesOf_eq_lines h, List.map_congr_left fun l _ => lineFinders_eq_windowCounts l]
  · rw [pen4Of, balancePoints, darkCount_eq_countCells h, h.1, distance_eq_natAbs]
    push_cast
    rfl

/-! ### The bound (R247) -/

theorem rect_of_picture_square {g : Grid} {n : Nat} (h : square (picture g) n) : g.Rect n n := by
  obtain ⟨hlen, hrow⟩ := h
  refine ⟨by simpa [picture] using hlen, fun r row hr => ?_⟩
  simpa using hrow (row.map Cell.dark) (List.mem_map_of_mem (List.mem_of_getElem? hr))

/-- Settles O49: masking keeps the shape, so every candidate's picture is square and meets the bound. -/
theorem penaltiesStayBelowTheirBound : Obligations.PenaltiesStayBelowTheirBound :=
  ⟨fun _ => rfl, fun _ _ hn h _ =>
    penaltyOf_total_lt hn (picture_square (Grid.rect_mapCells (rect_of_picture_square h) _))⟩

end Sys2Proof.Proofs
end

section
/-! The commands MASK_SCORE and MASK_SELECT (R249, R250): what each leaves in the registers and in every cell of MATRIX,
the errors they report, and that they score alike (R251). -/

namespace Sys2Proof.Proofs

open Sys2Proof Sys2Proof.Machine Sys2Proof.Spec

/-! ### The grid of a PLACED matrix -/

section
variable {s : State} {v mv : Version} {g : Grid}

/-- Every cell of a PLACED matrix holds a value. -/
theorem exists_cell_of_placed (hmx : s.mx = .placed mv) (hs : s.CellsOk) {k : Nat} (hk : k < mv.size * mv.size) :
    ∃ cell, s.matrix.toList[k]? = some (some cell) := by
  obtain ⟨hcells, -⟩ : (∀ r c, r < mv.size → c < mv.size →
      cellOk mv false r c (s.matrix.toList[r * mv.size + c]?.join) = true) ∧ _ := by
    simpa only [State.CellsOk, hmx] using hs
  have hsize : 0 < mv.size := Nat.pos_of_mul_pos_left (Nat.zero_lt_of_lt hk)
  have hok := hcells (k / mv.size) (k % mv.size) (Nat.div_lt_of_lt_mul hk) (Nat.mod_lt k hsize)
  rw [Nat.div_add_mod'] at hok
  obtain ⟨-, _, hcell⟩ | ⟨_, -, hcell⟩ := cellOk_placed_iff.mp hok
  · exact ⟨_, Option.join_eq_some_iff.mp hcell⟩
  · exact ⟨_, Option.join_eq_some_iff.mp hcell⟩

theorem exists_readGrid_of_placed (hmx : s.mx = .placed mv) (hs : s.CellsOk) : ∃ g, s.readGrid mv = some g := by
  have hlen : ((s.matrix.toList.take (mv.size * mv.size)).map (·.getD .unset)).length = mv.size * mv.size := by
    rw [List.length_map, List.length_take_of_le (s.matrix.length_toList.symm ▸ mv.size_sq_le)]
  refine ⟨_, State.readGrid_of_cells hlen fun k hk => ?_⟩
  obtain ⟨cell, hcell⟩ := exists_cell_of_placed hmx hs hk
  rw [List.getElem?_map, List.getElem?_take_of_lt hk, hcell]
  rfl

theorem lt_size_of_cell? (hg : g.Rect v.size v.size) {r c : Nat} {k : Cell} (h : g.cell? r c = some k) :
    r < v.size ∧ c < v.size := by
  by_contra hout
  rw [hg.cell?_eq_none hout] at h
  cases h

theorem gridShows_of_readGrid (hg : s.readGrid v = some g) : gridShows s v g := by
  obtain ⟨hrect, hcell⟩ := State.readGrid_eq_some hg
  refine ⟨hrect.1, fun row hrow => ?_, fun r c k hk => ?_⟩
  · obtain ⟨r, hr⟩ := List.mem_iff_getElem?.mp hrow
    exact hrect.2 r row hr
  · obtain ⟨hr, hc⟩ := lt_size_of_cell? hrect hk
    exact byteAt_cellOffset ((hcell r c hr hc).trans (congrArg some hk))

theorem placedVersion_of_placed (hmx : s.mx = .placed mv) : s.placedVersion = .ok mv := by
  rw [State.placedVersion, hmx]

theorem placedVersion_of_not_placed (h : ∀ mv, s.mx ≠ .placed mv) : s.placedVersion = .error .invalidState := by
  rw [State.placedVersion]
  cases hmx : s.mx with
  | placed mv => exact absurd hmx (h mv)
  | _ => rfl

/-! ### MASK_SCORE (R249) -/

theorem bodyMaskScore_of_placed (m : BitVec 3) (hmx : s.mx = .placed mv) (hg : s.readGrid mv = some g) :
    bodyMaskScore m s = .ok (s.writePenalty (candidatePenalty g m)) := by
  simp only [bodyMaskScore, placedVersion_of_placed hmx, hg]

/-- A cell with no value, which no run reaches (R312). -/
theorem bodyMaskScore_of_unreadable (m : BitVec 3) (hmx : s.mx = .placed mv) (hg : s.readGrid mv = none) :
    bodyMaskScore m s = .uninit := by
  simp only [bodyMaskScore, placedVersion_of_placed hmx, hg]

theorem bodyMaskScore_of_not_placed (m : BitVec 3) (h : ∀ mv, s.mx ≠ .placed mv) :
    bodyMaskScore m s = .error .invalidState 0x09#8 := by
  rw [bodyMaskScore, placedVersion_of_not_placed h]

end

/-- Settles O50: the matrix is PLACED and its grid is read, or the state is invalid. -/
theorem maskScoreScoresItsCandidate : Obligations.MaskScoreScoresItsCandidate := by
  refine fun s m => ⟨fun v hmx hs => ?_, fun h => runStages_error (bodyMaskScore_of_not_placed m h)⟩
  obtain ⟨g, hg⟩ := exists_readGrid_of_placed hmx hs
  exact ⟨g, hg, gridShows_of_readGrid hg, runStages_ok (bodyMaskScore_of_placed m hmx hg)⟩

/-! ### MASK_SELECT (R250) -/

section
variable {s : State} {v mv : Version} {g : Grid}

/-- SCORE and PEN1..4 are those of the mask that is kept. -/
theorem select_penalty (s : State) (mv : Version) (g : Grid) :
    (s.select mv g).score = BitVec.ofNat 32 (candidatePenalty g (s.select mv g).mask).total ∧
    (s.select mv g).pen1 = BitVec.ofNat 32 (candidatePenalty g (s.select mv g).mask).p1 ∧
    (s.select mv g).pen2 = BitVec.ofNat 32 (candidatePenalty g (s.select mv g).mask).p2 ∧
    (s.select mv g).pen3 = BitVec.ofNat 32 (candidatePenalty g (s.select mv g).mask).p3 ∧
    (s.select mv g).pen4 = BitVec.ofNat 32 (candidatePenalty g (s.select mv g).mask).p4 := by
  have hpen := allMasks_getD (candidatePenalty g) ⟨0, 0, 0, 0⟩ (s.select mv g).mask.isLt
  rw [BitVec.ofNat_toNat, BitVec.setWidth_eq] at hpen
  rw [← hpen]
  simp only [State.select, State.writePenalty, List.map_map, Function.comp_def, and_self]

theorem bodyMaskSelect_of_unsupported (h : unsupported s) :
    bodyMaskSelect s = .error .unsupportedConfiguration 0x0A#8 := by
  rw [bodyMaskSelect, checkedVersion_of_unsupported h]

theorem bodyMaskSelect_of_not_placed (hv : supports s v) (h : ∀ mv, s.mx ≠ .placed mv) :
    bodyMaskSelect s = .error .invalidState 0x0A#8 := by
  simp only [bodyMaskSelect, State.checkedVersion_eq_ok.mpr hv, placedVersion_of_not_placed h]

/-- What MASK_SELECT makes of a cell when it keeps mask `m` and writes format word `f` (R241, R248). -/
def selectedCell (n : Nat) (m : BitVec 3) (f : BitVec 15) (r c : Nat) (k : Cell) : Cell :=
  match formatBitAt n r c with
  | some i => .reserved (f.getLsbD i)
  | none => k.maskWith (maskPredicate m r c)

theorem selectedGrid_cell? (n : Nat) (m : BitVec 3) (f : BitVec 15) {r c : Nat} {k : Cell} (hk : g.cell? r c = some k) :
    (writeFormat n (applyMask g m) f).cell? r c = some (selectedCell n m f r c k) := by
  rw [writeFormat_cell?, applyMask_cell?, hk, selectedCell]
  cases formatBitAt n r c <;> rfl

/-- The grid MASK_SELECT writes has the shape of the one it reads. -/
theorem selectedGrid_rect (hg : g.Rect mv.size mv.size) (m : BitVec 3) (f : BitVec 15) :
    (writeFormat mv.size (applyMask g m) f).Rect mv.size mv.size :=
  Grid.rect_mapCells (Grid.rect_mapCells hg _) _

theorem select_byteAt_cell (hg : s.readGrid mv = some g) {r c : Nat} {k : Cell} (hk : g.cell? r c = some k) :
    (s.select mv g).byteAt (cellOffset mv r c) = some (cellByte
      (selectedCell mv.size (s.select mv g).mask (formatWord s.level (s.select mv g).mask) r c k)) := by
  obtain ⟨hrect, -⟩ := State.readGrid_eq_some hg
  obtain ⟨hr, hc⟩ := lt_size_of_cell? hrect hk
  obtain ⟨hcells, -⟩ := State.writeGrid_getElem? (s := s) (selectedGrid_rect hrect (s.select mv g).mask
    (formatWord s.level (s.select mv g).mask))
  exact byteAt_cellOffset ((hcells r c hr hc).trans (congrArg some (selectedGrid_cell? _ _ _ hk)))

/-- MASK_SELECT keeps every byte outside the matrix. -/
theorem select_byteAt_past (hg : s.readGrid mv = some g) {a : Nat} (ha : a < 0x400 ∨ 0x400 + mv.size * mv.size ≤ a) :
    (s.select mv g).byteAt a = s.byteAt a := by
  obtain ⟨hrect, -⟩ := State.readGrid_eq_some hg
  obtain ⟨-, hpast⟩ := State.writeGrid_getElem? (s := s) (selectedGrid_rect hrect (s.select mv g).mask
    (formatWord s.level (s.select mv g).mask))
  exact byteAt_of_sameCell rfl fun hlo => hpast (a - 0x400) (by omega)

end

/-- Settles O51: MASK_SELECT's writes by the mask it keeps, which is the first least one; or one of its two errors. -/
theorem maskSelectKeepsTheFirstLeastMask : Obligations.MaskSelectKeepsTheFirstLeastMask := by
  refine fun s => ⟨fun v mv hv hmx hs => ?_, fun h => runStages_error (bodyMaskSelect_of_unsupported h),
    fun v hv h => runStages_error (bodyMaskSelect_of_not_placed hv h)⟩
  obtain ⟨g, hg⟩ := exists_readGrid_of_placed hmx hs
  obtain ⟨hle, hlt⟩ := leastMask_isFirstLeast _ (select_mask s mv g).symm
  obtain ⟨hscore, hp1, hp2, hp3, hp4⟩ := select_penalty s mv g
  exact ⟨g, (s.select mv g).complete, hg, gridShows_of_readGrid hg, runStages_ok (bodyMaskSelect_of_placed hv hmx hg),
    rfl, fun k => select_scores s mv g k.isLt, fun k => ⟨hle k, hlt k⟩, hscore, hp1, hp2, hp3, hp4,
    fun r c k => select_byteAt_cell hg, fun a => select_byteAt_past hg⟩

/-! ### Re-scoring (R251) -/

/-- Settles O52: both commands score the candidates of the one grid they read; if it cannot be read, neither completes. -/
theorem rescoringReproducesTheSelectedScores : Obligations.RescoringReproducesTheSelectedScores := by
  intro s t u v mv m hv hmx hselect hscore
  cases hg : s.readGrid mv with
  | none => cases (runStages_uninit (bodyMaskScore_of_unreadable m hmx hg)).symm.trans hscore
  | some g =>
    obtain rfl : (s.select mv g).complete = t :=
      Host.Outcome.next.inj ((runStages_ok (bodyMaskSelect_of_placed hv hmx hg)).symm.trans hselect)
    obtain rfl : (s.writePenalty (candidatePenalty g m)).complete = u :=
      Host.Outcome.next.inj ((runStages_ok (bodyMaskScore_of_placed m hmx hg)).symm.trans hscore)
    obtain ⟨hsel, hp1, hp2, hp3, hp4⟩ := select_penalty s mv g
    have hscores := select_scores s mv g m.isLt
    rw [BitVec.ofNat_toNat, BitVec.setWidth_eq] at hscores
    refine ⟨hscores.symm, ?_⟩
    rintro rfl
    exact ⟨hsel.symm, hp1.symm, hp2.symm, hp3.symm, hp4.symm⟩

end Sys2Proof.Proofs
end

section
/-! NOP and ENCODE as compositions (R270 to R272): a stage acts alike before and after `complete()`, so ENCODE is its stages
run as commands in order; and ENCODE's final state written out, which shows what its results depend on. -/

namespace Sys2Proof.Proofs

open Sys2Proof Sys2Proof.Machine Sys2Proof.Spec

/-- Settles O53: NOP has no stage, so it is `complete()` alone. -/
theorem nopOnlyCompletes : Obligations.NopOnlyCompletes := fun s => runStages_nil s

/-! ### Stages and `complete()` -/

/-- A body's writes followed by `complete()`. -/
def Body.thenComplete : Body → Body
  | .ok t => .ok t.complete
  | .error e stage => .error e stage
  | .uninit => .uninit

/-- A stage that acts alike whether or not `complete()` has run before it: it reads none of the fields written there. -/
def CommutesWithComplete (b : State → Body) : Prop := ∀ s, b s.complete = Body.thenComplete (b s)

/-- `complete()` before a row of such stages is lost: the end of the row writes its fields again (R302, R303). -/
theorem runStages_complete {bs : List (State → Body)} (h : ∀ b ∈ bs, CommutesWithComplete b) (s : State) :
    runStages bs s.complete = runStages bs s := by
  induction bs generalizing s with
  | nil => rfl
  | cons b bs ih =>
    obtain ⟨hb, hbs⟩ := List.forall_mem_cons.mp h
    have hstage := hb s
    cases hbody : b s with
    | ok t =>
      rw [hbody] at hstage
      rw [runStages_ok hstage, runStages_ok hbody, ih hbs]
    | error e st =>
      rw [hbody] at hstage
      rw [runStages_error hstage, runStages_error hbody]
      rfl
    | uninit =>
      rw [hbody] at hstage
      rw [runStages_uninit hstage, runStages_uninit hbody]

/-- A first stage that completes as a command of its own hands its final state to the stages after it. -/
theorem runStages_cons_of_single {b : State → Body} {bs : List (State → Body)} {s t : State}
    (hbs : ∀ b ∈ bs, CommutesWithComplete b) (h : runStages [b] s = .next t) (ht : t.err = false) :
    runStages (b :: bs) s = runStages bs t := by
  obtain ⟨u, hu, hnext⟩ | ⟨e, st, -, rfl⟩ := runStages_cons_next h
  · obtain rfl : u.complete = t := Host.Outcome.next.inj hnext
    rw [runStages_ok hu, runStages_complete hbs]
  · cases ht

/-! `complete()` changes none of the operands that stages read. -/

@[simp] theorem complete_level (s : State) : s.complete.level = s.level := rfl

@[simp] theorem complete_checkedVersion (s : State) : s.complete.checkedVersion = s.checkedVersion := rfl

@[simp] theorem complete_encCounts (s : State) (x : Bool) : s.complete.encCounts x = s.encCounts x := rfl

@[simp] theorem complete_builtVersion (s : State) : s.complete.builtVersion = s.builtVersion := rfl

@[simp] theorem complete_placedVersion (s : State) : s.complete.placedVersion = s.placedVersion := rfl

@[simp] theorem complete_readGrid (s : State) (v : Version) : s.complete.readGrid v = s.readGrid v := rfl

@[simp] theorem complete_readBuffer (s : State) (b : BufName) (n : Nat) :
    s.complete.readBuffer b n = s.readBuffer b n := rfl

theorem bodyRsEnc_commutesWithComplete (x : Bool) : CommutesWithComplete (bodyRsEnc x) := fun s => by
  simp only [bodyRsEnc, complete_encCounts, complete_readBuffer]
  split
  · rfl
  · split <;> rfl

theorem bodyMxBuild_commutesWithComplete : CommutesWithComplete bodyMxBuild := fun s => by
  simp only [bodyMxBuild, complete_checkedVersion]
  split <;> rfl

theorem bodyMxPlace_commutesWithComplete : CommutesWithComplete bodyMxPlace := fun s => by
  simp only [bodyMxPlace, complete_checkedVersion, complete_builtVersion, complete_readGrid, complete_level,
    complete_readBuffer]
  split
  · rfl
  split
  · rfl
  split
  · rfl
  split
  · rfl
  split
  · rfl
  split <;> rfl

theorem bodyMaskSelect_commutesWithComplete : CommutesWithComplete bodyMaskSelect := fun s => by
  simp only [bodyMaskSelect, complete_checkedVersion, complete_placedVersion, complete_readGrid]
  split
  · rfl
  split
  · rfl
  split <;> rfl

/-- Settles O54: each stage that completes hands its final state on, and the last one ends both rows. -/
theorem encodeEqualsItsStagesInSequence : Obligations.EncodeEqualsItsStagesInSequence := by
  intro s s1 s2 s3 s4 s5 _ h1 e1 h2 e2 h3 e3 h4 e4 h5 _
  have hrs := bodyRsEnc_commutesWithComplete false
  have hbuild := bodyMxBuild_commutesWithComplete
  have hplace := bodyMxPlace_commutesWithComplete
  have hselect := bodyMaskSelect_commutesWithComplete
  calc exec .encode s
      = runStages [bodyRsEnc false, bodyMxBuild, bodyMxPlace, bodyMaskSelect] s1 :=
        runStages_cons_of_single (by simp [hrs, hbuild, hplace, hselect]) h1 e1
    _ = runStages [bodyMxBuild, bodyMxPlace, bodyMaskSelect] s2 :=
        runStages_cons_of_single (by simp [hbuild, hplace, hselect]) h2 e2
    _ = runStages [bodyMxPlace, bodyMaskSelect] s3 := runStages_cons_of_single (by simp [hplace, hselect]) h3 e3
    _ = runStages [bodyMaskSelect] s4 := runStages_cons_of_single (by simp [hselect]) h4 e4
    _ = .next s5 := h5

/-! ### ENCODE's final state -/

/-- The state after the matrix stages of ENCODE on data codewords `d` and EC codewords `e`. -/
def matrixMasked (s : State) (v : Version) (d e : List Byte) : State :=
  (mxPlaced (mxBuilt s v) v d e).select v (placedGrid v d e)

/-- The state after RS_ENC's stage and the matrix stages on data codewords `d`, for `n` EC codewords. -/
def encodedFrom (s : State) (v : Version) (d : List Byte) (n : Nat) : State :=
  matrixMasked (rsEncoded s d n) v d (rsrem d n)

/-- The state after all stages of ENCODE of payload `p` by row `cap` of the capacity table. -/
def encoded (s : State) (v : Version) (cap : Capacity) (p : List Byte) : State :=
  encodedFrom (bsBuilt s p cap.dataCount) v (dataCodewords p cap.dataCount) cap.ecCount

section
variable {s : State} {v : Version} {cap : Capacity} (hv : supports s v) (hcap : capacity v s.level = cap)
include hv hcap

theorem runStages_matrix_eq {d e : List Byte} (hd : s.readBuffer .data cap.dataCount = some d)
    (he : s.readBuffer .ec cap.ecCount = some e) :
    runStages [bodyMxBuild, bodyMxPlace, bodyMaskSelect] s = .next (matrixMasked s v d e).complete := by
  subst hcap
  have hbuild := bodyMxBuild_of_supports hv
  have hplace := bodyMxPlace_of_built (s := mxBuilt s v) hv rfl (bodyMxBuild_cellsOk hbuild) hd he
  have hread : (mxPlaced (mxBuilt s v) v d e).readGrid v = some (placedGrid v d e) :=
    readGrid_writeGrid (mxBuilt s v) (Grid.rect_mxplace (mxbuild_rect v) _ _)
  have hselect := bodyMaskSelect_of_placed (s := mxPlaced (mxBuilt s v) v d e) hv rfl hread
  exact (runStages_ok hbuild).trans ((runStages_ok hplace).trans (runStages_ok hselect))

theorem runStages_afterBsBuild_eq (hle : cap.dataCount ≤ 64) {d : List Byte}
    (hd : s.readBuffer .data cap.dataCount = some d) :
    runStages [bodyRsEnc false, bodyMxBuild, bodyMxPlace, bodyMaskSelect] s =
      .next (encodedFrom s v d cap.ecCount).complete := by
  have hrs : bodyRsEnc false s = .ok (rsEncoded s d cap.ecCount) := hcap ▸ bodyRsEnc_of_read hv (hcap ▸ hd)
  have hec := readBuffer_writeBuffer s .ec (rsrem d cap.ecCount)
  rw [rsrem_length] at hec
  have hdata := (readBuffer_data_writeBuffer_ec s hle (rsrem d cap.ecCount)).trans hd
  exact (runStages_ok hrs).trans (runStages_matrix_eq (s := rsEncoded s d cap.ecCount) hv hcap hdata hec)

/-- ENCODE of a payload that fits ends in `encoded` (R272). -/
theorem execEncode_eq_encoded {p : List Byte} (hp : p.length = s.arg0.toNat)
    (hfit : 12 + 8 * s.arg0.toNat ≤ 8 * cap.dataCount) (ht : holds s 0x100 p) :
    exec .encode s = .next (encoded s v cap p).complete := by
  have hle : cap.dataCount ≤ 34 := hcap ▸ (capacity_bounds v s.level).2.1
  have hbs : bodyBsBuild s = .ok (bsBuilt s p cap.dataCount) := hcap ▸ bodyBsBuild_of_holds hv hp (hcap ▸ hfit) ht
  have hread := readBuffer_writeBuffer s .data (dataCodewords p cap.dataCount)
  rw [dataCodewords_length] at hread
  exact (runStages_ok hbs).trans
    (runStages_afterBsBuild_eq (s := bsBuilt s p cap.dataCount) hv hcap (hle.trans (by decide)) hread)

end

/-! ### What the final state's results depend on -/

/-- MX_BUILD writes every cell, so nothing of the array before it is left (R218). -/
theorem mxBuilt_matrix_eq (s s' : State) (v : Version) : (mxBuilt s v).matrix = (mxBuilt s' v).matrix := by
  have hfull (u : State) : (mxBuilt u v).matrix.toList = (mxbuildCells v).map some :=
    overlayList_full _ _ (by rw [mxbuildCells_length, Vector.length_toList])
  exact Vector.toList_inj.mp ((hfull s).trans (hfull s').symm)

/-- The final cells are those of the codewords, with the format word of the level (R248). -/
theorem matrixMasked_matrix_eq {s s' : State} (h : s.level = s'.level) (v : Version) (d e : List Byte) :
    (matrixMasked s v d e).matrix = (matrixMasked s' v d e).matrix := by
  have hlevel : (mxPlaced (mxBuilt s v) v d e).level = (mxPlaced (mxBuilt s' v) v d e).level := h
  have hplaced : (mxPlaced (mxBuilt s v) v d e).matrix = (mxPlaced (mxBuilt s' v) v d e).matrix :=
    congrArg (overlay (placedGrid v d e).flatten) (mxBuilt_matrix_eq s s' v)
  simp only [matrixMasked, State.select, State.writePenalty_matrix, State.writeGrid_matrix, hlevel, hplaced]

theorem encodedFrom_matrix_eq {s s' : State} (h : s.level = s'.level) (v : Version) (d : List Byte) (n : Nat) :
    (encodedFrom s v d n).matrix = (encodedFrom s' v d n).matrix :=
  matrixMasked_matrix_eq (s := rsEncoded s d n) (s' := rsEncoded s' d n) h v d (rsrem d n)

theorem encoded_matrix_eq {s s' : State} (h : s.level = s'.level) (v : Version) (cap : Capacity) (p : List Byte) :
    (encoded s v cap p).matrix = (encoded s' v cap p).matrix :=
  encodedFrom_matrix_eq (s := bsBuilt s p cap.dataCount) (s' := bsBuilt s' p cap.dataCount) h v _ _

/-- DATA and EC show the codewords. -/
theorem encoded_holds (s : State) (v : Version) {cap : Capacity} (hd : cap.dataCount ≤ 64) (he : cap.ecCount ≤ 64)
    (p : List Byte) :
    holds (encoded s v cap p).complete 0x200 (dataCodewords p cap.dataCount) ∧
      holds (encoded s v cap p).complete 0x240 (rsrem (dataCodewords p cap.dataCount) cap.ecCount) := by
  have hdlen := (dataCodewords_length p cap.dataCount).trans_le hd
  have helen := (rsrem_length (dataCodewords p cap.dataCount) cap.ecCount).trans_le he
  have hmem : (encoded s v cap p).complete.mem = (s.mem.setAll 0x200 (dataCodewords p cap.dataCount)).setAll 0x240
      (rsrem (dataCodewords p cap.dataCount) cap.ecCount) := rfl
  refine ⟨fun k hk => ?_, fun k hk => ?_⟩
  · rw [byteAt_of_codewords hdlen helen hmem (by omega), if_pos (by omega), Nat.add_sub_cancel_left]
  · rw [byteAt_of_codewords hdlen helen hmem (by omega), if_neg (by omega), if_pos (by omega), Nat.add_sub_cancel_left]

/-! ### What a success of ENCODE says of its operands -/

theorem ErrCode.code_ne_zero (e : ErrCode) : e.code ≠ 0#4 := by cases e <;> decide

/-- A row of stages that ends with ERRCODE 0 has its first stage succeed: `raise` saves a code (R303). -/
theorem exists_ok_of_errCode_zero {b : State → Body} {bs : List (State → Body)} {s t : State}
    (h : runStages (b :: bs) s = .next t) (ht : t.errCode = 0#4) : ∃ u, b s = .ok u := by
  obtain ⟨u, hu, -⟩ | ⟨e, st, -, rfl⟩ := runStages_cons_next h
  · exact ⟨u, hu⟩
  · exact absurd ht (ErrCode.code_ne_zero e)

theorem holds_of_readBuffer {s : State} {b : BufName} {n : Nat} {vs : List Byte} (hlo : 0x100 ≤ b.windowBase)
    (hhi : b.windowBase + n ≤ 0x2C0) (h : s.readBuffer b n = some vs) : holds s b.windowBase vs := by
  obtain ⟨hlen, hget⟩ := Memory.readAll_eq_some.mp h
  exact fun k hk => (byteAt_windowBase hlo hhi (hlen ▸ hk)).trans (hget k (hlen ▸ hk))

/-- BS_BUILD's stage succeeds only on a supported configuration and a payload that fits and is there (R163). -/
theorem payload_of_bodyBsBuild_ok {s u : State} (h : bodyBsBuild s = .ok u) : ∃ v p, supports s v ∧
    p.length = s.arg0.toNat ∧ 12 + 8 * s.arg0.toNat ≤ 8 * (capacity v s.level).dataCount ∧ holds s 0x100 p := by
  obtain ⟨cap, p, hcap, hfit, hp, -⟩ := bodyBsBuild_ok h
  obtain ⟨v, hv, rfl⟩ := State.checkedCapacity_eq_ok.mp hcap
  obtain ⟨-, hd, -, -⟩ := capacity_bounds v s.level
  exact ⟨v, p, State.checkedVersion_eq_ok.mp hv, readBuffer_length hp, hfit,
    holds_of_readBuffer (b := .text) (by decide) (by simp only [BufName.windowBase]; omega) hp⟩

/-- Settles O56: both runs end in `encoded` of the same payload, version and row of the capacity table. -/
theorem encodeDependsOnlyOnPayloadAndConfig : Obligations.EncodeDependsOnlyOnPayloadAndConfig := by
  intro s s' t hversion hecc harg hbytes hexec hcode
  obtain ⟨u, hu⟩ := exists_ok_of_errCode_zero hexec hcode
  obtain ⟨v, p, hv, hp, hfit, ht⟩ := payload_of_bodyBsBuild_ok hu
  obtain ⟨-, hd, -, he⟩ := capacity_bounds v s.level
  have hlevel : s'.level = s.level := congrArg EccLevel.ofCode hecc.symm
  have ht' : holds s' 0x100 p := fun k hk => (hbytes k (hp ▸ hk)).symm.trans (ht k hk)
  have hexec' := execEncode_eq_encoded (s := s') (hversion.symm.trans hv) (congrArg (capacity v) hlevel) (harg ▸ hp)
    (harg ▸ hfit) ht'
  obtain rfl := Host.Outcome.next.inj ((execEncode_eq_encoded hv rfl hp hfit ht).symm.trans hexec)
  generalize capacity v s.level = cap at *
  obtain ⟨hdata, hec⟩ := encoded_holds s v (hd.trans (by decide)) (he.trans (by decide)) p
  obtain ⟨hdata', hec'⟩ := encoded_holds s' v (hd.trans (by decide)) (he.trans (by decide)) p
  refine ⟨_, hexec', rfl, encoded_matrix_eq hlevel v cap p, rfl, rfl, rfl, rfl, rfl, rfl, rfl, rfl, rfl, rfl,
    congrArg (fun a : Word => BitVec.ofNat 16 (12 + 8 * a.toNat)) harg.symm, fun k hk => ?_, fun k hk => ?_⟩
  · have hk : k < (dataCodewords p cap.dataCount).length :=
      hk.trans_le ((Nat.mod_le _ _).trans_eq (dataCodewords_length p _).symm)
    exact (hdata' k hk).trans (hdata k hk).symm
  · have hk : k < (rsrem (dataCodewords p cap.dataCount) cap.ecCount).length :=
      hk.trans_le ((Nat.mod_le _ _).trans_eq (rsrem_length _ _).symm)
    exact (hec' k hk).trans (hec k hk).symm

end Sys2Proof.Proofs
end

section
/-! Hazards (R313) and the ends of commands (R302, R303, R309, R312): which accesses a pending command forbids, and what
every stage can come to, from which every command ends, faults UNINIT, or fails precisely. -/

namespace Sys2Proof.Proofs

open Sys2Proof Sys2Proof.Machine Sys2Proof.Spec

/-! ### Hazards (R313) -/

/-- An access at a register that is no bus error is a word access at the register's own offset (R61, R62). -/
theorem word_and_offset_of_regAt {a : BusAccess} {r : RegName} (h : a.busError = false) (hr : regAt a.offset = some r) :
    a.width = .word ∧ a.offset = (offset (registerOffset r)).toNat := by
  simp only [BusAccess.busError, regionOf_of_regAt hr, Bool.or_eq_false_iff, bne_eq_false_iff_eq] at h
  exact ⟨h.1, (regAt_eq_some hr).symm.trans (offset_registerOffset_toNat r).symm⟩

theorem eq_readAt_of_regAt {o : BitVec 12} {w : Width} {r : RegName} (h : (BusAccess.read o w).busError = false)
    (hr : regAt o.toNat = some r) : BusAccess.read o w = readAt r := by
  obtain ⟨hw, ho⟩ := word_and_offset_of_regAt h hr
  exact congrArg₂ BusAccess.read (BitVec.eq_of_toNat_eq ho) hw

theorem eq_writeAt_of_regAt {o : BitVec 12} {w : Width} {v : Word} {r : RegName}
    (h : (BusAccess.write o w v).busError = false) (hr : regAt o.toNat = some r) :
    BusAccess.write o w v = writeAt r v := by
  obtain ⟨hw, ho⟩ := word_and_offset_of_regAt h hr
  exact congrArg₂ (BusAccess.write · · v) (BitVec.eq_of_toNat_eq ho) hw

/-- The check on the pending flag is the spec's list of four accesses. -/
theorem allowedWhilePending_iff_allowedWhileBusy {a : BusAccess} (h : a.busError = false) :
    a.allowedWhilePending = true ↔ allowedWhileBusy a := by
  constructor
  · intro hallowed
    cases a with
    | read o w =>
      simp only [BusAccess.allowedWhilePending, beq_iff_eq] at hallowed
      exact .inl (eq_readAt_of_regAt h hallowed)
    | write o w v =>
      simp only [BusAccess.allowedWhilePending, Bool.or_eq_true, beq_iff_eq] at hallowed
      obtain (hr | hr) | hr := hallowed
      · exact .inr (.inl ⟨v, eq_writeAt_of_regAt h hr⟩)
      · exact .inr (.inr (.inl ⟨v, eq_writeAt_of_regAt h hr⟩))
      · exact .inr (.inr (.inr ⟨v, eq_writeAt_of_regAt h hr⟩))
  · rintro (rfl | ⟨v, rfl⟩ | ⟨v, rfl⟩ | ⟨v, rfl⟩)
    · exact allowedWhilePending_readAt .status
    · exact allowedWhilePending_writeAt .status v
    · exact allowedWhilePending_writeAt .ctrl v
    · exact allowedWhilePending_writeAt .cmd v

theorem access_eq_hazard_iff (s : State) {a : BusAccess} (h : a.busError = false) :
    s.access a = .fault .hazard ↔ s.pending = true ∧ ¬a.allowedWhilePending = true := by
  obtain ⟨t, ht⟩ := perform_answers s h
  rw [State.access, h, if_neg Bool.false_ne_true, ht]
  split
  · next hhazard => simpa using hhazard
  · next hallowed => simpa using hallowed

/-- Settles O13: the check on the pending flag alone answers HAZARD. -/
theorem hazardsExactly : Obligations.HazardsExactly := by
  intro s a hgood
  have h := (busError_eq_false_iff a).mpr hgood
  rw [access_eq_hazard_iff s h, allowedWhilePending_iff_allowedWhileBusy h]

/-! ### The errors of the checked operands (R300) -/

section
variable {s : State} {e : ErrCode}

theorem checkedVersion_error_ne_illegal (h : s.checkedVersion = .error e) : e ≠ .illegalCommand := by
  obtain ⟨rfl, -⟩ := State.checkedVersion_eq_error.mp h
  decide

theorem checkedCapacity_error_ne_illegal (h : s.checkedCapacity = .error e) : e ≠ .illegalCommand :=
  checkedVersion_error_ne_illegal (State.checkedCapacity_eq_error.mp h)

theorem genCount_error_ne_illegal {x : Bool} (h : s.genCount x = .error e) : e ≠ .illegalCommand := by
  simp only [State.genCount] at h
  split at h
  · split at h <;> cases h
    decide
  · split at h <;> cases h
    exact checkedCapacity_error_ne_illegal ‹_›

theorem encCounts_error_ne_illegal {x : Bool} (h : s.encCounts x = .error e) : e ≠ .illegalCommand := by
  simp only [State.encCounts] at h
  split at h
  · split at h <;> cases h
    decide
  · split at h <;> cases h
    exact checkedCapacity_error_ne_illegal ‹_›

theorem builtVersion_error_ne_illegal (h : s.builtVersion = .error e) : e ≠ .illegalCommand := by
  simp only [State.builtVersion] at h
  split at h <;> cases h <;> decide

theorem placedVersion_error_ne_illegal (h : s.placedVersion = .error e) : e ≠ .illegalCommand := by
  simp only [State.placedVersion] at h
  split at h <;> cases h <;> decide

theorem placedVersion_eq_ok {mv : Version} (h : s.placedVersion = .ok mv) : s.mx = .placed mv := by
  simp only [State.placedVersion] at h
  split at h <;> cases h
  assumption

end

/-! ### What a stage can come to -/

/-- The grid of a PLACED matrix is unreadable only when the cells are not as MXSTATE says (log 11). -/
theorem not_cellsOk_of_unreadable {s : State} {mv : Version} (hmx : s.mx = .placed mv) (hg : s.readGrid mv = none) :
    ¬s.CellsOk := fun hs => by
  obtain ⟨g, hg'⟩ := exists_readGrid_of_placed hmx hs
  cases hg.symm.trans hg'

/-- What the stage of a command other than ENCODE comes to: writes that keep ERR, an error of the command's own with its
opcode as the stage (R303), or UNINIT, on valid cells only for a reader of a buffer (R312). -/
def StageOutcome (i : Instr) (s : State) : Body → Prop
  | .ok t => t.err = s.err
  | .error e stage => e ≠ .illegalCommand ∧ stage = i.fields.opcode
  | .uninit => s.CellsOk → i ∈ [.rsEnc false, .rsEnc true, .bsBuild, .mxPlace]

section
variable (s : State)

theorem bodyGfLog_outcome : StageOutcome .gfLog s (bodyGfLog s) := by
  simp only [bodyGfLog]
  split
  · exact ⟨by decide, rfl⟩
  · rfl

theorem bodyRsGen_outcome (x : Bool) : StageOutcome (.rsGen x) s (bodyRsGen x s) := by
  simp only [bodyRsGen]
  split
  · exact ⟨genCount_error_ne_illegal ‹_›, rfl⟩
  · rfl

theorem bodyRsEnc_outcome (x : Bool) : StageOutcome (.rsEnc x) s (bodyRsEnc x s) := by
  simp only [bodyRsEnc]
  split
  · exact ⟨encCounts_error_ne_illegal ‹_›, rfl⟩
  · split
    · intro
      cases x <;> decide
    · rfl

theorem bodyBsBuild_outcome : StageOutcome .bsBuild s (bodyBsBuild s) := by
  simp only [bodyBsBuild]
  split
  · exact ⟨checkedCapacity_error_ne_illegal ‹_›, rfl⟩
  · split
    · exact ⟨by decide, rfl⟩
    · split
      · exact fun _ => by decide
      · rfl

theorem bodyMxBuild_outcome : StageOutcome .mxBuild s (bodyMxBuild s) := by
  simp only [bodyMxBuild]
  split
  · exact ⟨checkedVersion_error_ne_illegal ‹_›, rfl⟩
  · rfl

theorem bodyMxPlace_outcome : StageOutcome .mxPlace s (bodyMxPlace s) := by
  have huninit : StageOutcome .mxPlace s .uninit := fun _ => by decide
  simp only [bodyMxPlace]
  split
  · exact ⟨checkedVersion_error_ne_illegal ‹_›, rfl⟩
  split
  · exact ⟨builtVersion_error_ne_illegal ‹_›, rfl⟩
  split
  · exact huninit
  split
  · exact ⟨by decide, rfl⟩
  split
  · exact ⟨by decide, rfl⟩
  split
  · rfl
  · exact huninit
  · exact huninit

theorem bodyMaskScore_outcome (m : BitVec 3) : StageOutcome (.maskScore m) s (bodyMaskScore m s) := by
  simp only [bodyMaskScore]
  split
  · exact ⟨placedVersion_error_ne_illegal ‹_›, rfl⟩
  · split
    · exact fun hs => absurd hs (not_cellsOk_of_unreadable (placedVersion_eq_ok ‹_›) ‹_›)
    · rfl

theorem bodyMaskSelect_outcome : StageOutcome .maskSelect s (bodyMaskSelect s) := by
  simp only [bodyMaskSelect]
  split
  · exact ⟨checkedVersion_error_ne_illegal ‹_›, rfl⟩
  split
  · exact ⟨placedVersion_error_ne_illegal ‹_›, rfl⟩
  split
  · exact fun hs => absurd hs (not_cellsOk_of_unreadable (placedVersion_eq_ok ‹_›) ‹_›)
  · rfl

theorem bodyTblCap_outcome : StageOutcome .tblCap s (bodyTblCap s) := by
  simp only [bodyTblCap]
  split
  · exact ⟨checkedCapacity_error_ne_illegal ‹_›, rfl⟩
  · rfl

theorem bodyTblGeom_outcome : StageOutcome .tblGeom s (bodyTblGeom s) := by
  simp only [bodyTblGeom]
  split
  · exact ⟨checkedVersion_error_ne_illegal ‹_›, rfl⟩
  · rfl

theorem bodyTblFmt_outcome (m : BitVec 3) : StageOutcome (.tblFmt m) s (bodyTblFmt m s) := by
  simp only [bodyTblFmt]
  split
  · exact ⟨checkedVersion_error_ne_illegal ‹_›, rfl⟩
  · rfl

/-- A command other than ENCODE is one stage; NOP is the stage that writes nothing. -/
theorem exists_stage {i : Instr} (hi : i ≠ .encode) :
    ∃ b : State → Body, exec i s = runStages [b] s ∧ StageOutcome i s (b s) := by
  cases i with
  | nop => exact ⟨.ok, rfl, rfl⟩
  | gfMul => exact ⟨bodyGfMul, rfl, rfl⟩
  | gfExp => exact ⟨bodyGfExp, rfl, rfl⟩
  | gfLog => exact ⟨_, rfl, bodyGfLog_outcome s⟩
  | rsGen x => exact ⟨_, rfl, bodyRsGen_outcome s x⟩
  | rsEnc x => exact ⟨_, rfl, bodyRsEnc_outcome s x⟩
  | bsBuild => exact ⟨_, rfl, bodyBsBuild_outcome s⟩
  | mxBuild => exact ⟨_, rfl, bodyMxBuild_outcome s⟩
  | mxPlace => exact ⟨_, rfl, bodyMxPlace_outcome s⟩
  | maskScore m => exact ⟨_, rfl, bodyMaskScore_outcome s m⟩
  | maskSelect => exact ⟨_, rfl, bodyMaskSelect_outcome s⟩
  | tblCap => exact ⟨_, rfl, bodyTblCap_outcome s⟩
  | tblGeom => exact ⟨_, rfl, bodyTblGeom_outcome s⟩
  | tblFmt m => exact ⟨_, rfl, bodyTblFmt_outcome s m⟩
  | encode => exact absurd rfl hi

end

/-! ### Precise errors (R303, R309) -/

/-- Only ILLEGAL_COMMAND has code 1 (R300). -/
theorem ErrCode.two_le_code {e : ErrCode} (h : e ≠ .illegalCommand) : 2 ≤ e.code.toNat := by
  cases e with
  | illegalCommand => exact absurd rfl h
  | _ => decide

/-- A stage's error raised from the state the command started in is precise. -/
theorem exists_failed_of_error {i : Instr} {s : State} {e : ErrCode} {stage : Byte}
    (h : StageOutcome i s (.error e stage)) :
    ∃ code : BitVec 4, 2 ≤ code.toNat ∧ code.toNat ≤ 8 ∧ s.raise e stage = failed s code i.fields.opcode := by
  obtain ⟨he, rfl⟩ := h
  exact ⟨e.code, ErrCode.two_le_code he, (errCode_range e).2, raise_eq_failed s e _⟩

/-- ENCODE whose first stage succeeds leaves ERR as it was: only the first stage can fail (R272). -/
theorem execEncode_err {s t u : State} (hu : bodyBsBuild s = .ok u) (h : exec .encode s = .next t) : t.err = s.err := by
  obtain ⟨v, p, hv, hp, hfit, ht⟩ := payload_of_bodyBsBuild_ok hu
  obtain ⟨t', hnext, hstate, -⟩ := execEncode_of_holds hv hp hfit ht
  obtain rfl : t' = t := Host.Outcome.next.inj (hnext.symm.trans h)
  exact (congrArg State.err hstate).trans rfl

/-- Settles O57: a command of one stage fails in it, and ENCODE fails in its first. -/
theorem failedCommandsChangeOnlyStatusAndErrors : Obligations.FailedCommandsChangeOnlyStatusAndErrors := by
  intro i s t hs h ht
  by_cases hi : i = .encode
  · subst hi
    obtain ⟨u, hu, -⟩ | ⟨e, stage, herror, rfl⟩ := runStages_cons_next h
    · simp [execEncode_err hu h, hs] at ht
    · exact exists_failed_of_error (i := .bsBuild) (herror ▸ bodyBsBuild_outcome s)
  · obtain ⟨b, hexec, houtcome⟩ := exists_stage s hi
    rw [hexec] at h
    obtain ⟨u, hu, hnext⟩ | ⟨e, stage, herror, rfl⟩ := runStages_cons_next h
    · have herr : u.err = s.err := by
        rw [hu] at houtcome
        exact houtcome
      cases hnext
      simp [herr, hs] at ht
    · rw [failingStage, if_neg hi]
      exact exists_failed_of_error (herror ▸ houtcome)

/-! ### Every command ends (R302, R303, R312) -/

/-- Settles O58: stages end or fault UNINIT, and on valid cells only the readers of a buffer fault. -/
theorem everyCommandEndsOrFaultsUninit : Obligations.EveryCommandEndsOrFaultsUninit := by
  refine fun i s => ⟨?_, fun hcells h => ?_⟩
  · rw [exec_eq_runStages]
    exact (runStages_outcome (stages i) s).imp_left fun ⟨t, ht⟩ => ⟨t, ht, runStages_ends ht⟩
  · by_cases hi : i = .encode
    · simp [hi]
    · obtain ⟨b, hexec, houtcome⟩ := exists_stage s hi
      obtain ⟨u, -, hnext⟩ | ⟨e, st, -, hnext⟩ | ⟨hb, -⟩ := runStages_single b s
      · cases (hexec.trans hnext).symm.trans h
      · cases (hexec.trans hnext).symm.trans h
      · rw [hb] at houtcome
        exact List.mem_append_left [.encode] (houtcome hcells)

end Sys2Proof.Proofs
end

section
/-! The wait of a pending command (R360): every step either leaves the pending state or makes the wait one turn shorter,
so as many steps as the wait has turns, and one more, see the command executed or abandoned. -/

namespace Sys2Proof.Proofs

open Sys2Proof Sys2Proof.Machine Sys2Proof.Spec

/-! ### Only the step itself shortens the wait (log 4) -/

section
variable {s t : State} (hp : s.pending = true) (ht : t.pending = true)
include hp ht

/-- No register write changes the wait of a command that stays pending: CMD is dropped, and a soft reset abandons it. -/
theorem writeReg_delay {r : RegName} {v : Word} (h : t = s.writeReg r v) : t.delay = s.delay := by
  subst h
  cases r with
  | ctrl =>
    simp only [State.writeReg] at ht ⊢
    cases hv : v.getLsbD 1 with
    | true => simp [writeCtrl_of_srst hv, State.reset] at ht
    | false => rw [writeCtrl_of_not_srst hv]
  | cmd => rw [State.writeReg, writeCmd_of_pending hp]
  | _ => rfl

theorem access_delay {a : BusAccess} (h : s.access a = .next t) : t.delay = s.delay := by
  obtain ⟨-, -, hperform⟩ := State.access_eq_next h
  obtain ⟨o, w, r, -, -, rfl⟩ | ⟨o, w, b, -, -, rfl⟩ | ⟨o, w, v, r, -, -, hwrite⟩ | ⟨o, w, v, b, -, -, rfl⟩ :=
    State.perform_cases hperform
  · rfl
  · rfl
  · exact writeReg_delay hp ht hwrite
  · cases b <;> rfl

theorem hostTurn_delay (h : s.hostTurn = .next t) : t.delay = s.delay := by
  obtain rfl | ⟨a, ha⟩ | ⟨n, rfl⟩ := State.hostTurn_cases h
  · rfl
  · exact access_delay (s := s.setPc (s.host.pc + 1)) hp ht ha
  · rfl

end

/-- Everything a step of a pending command does to the pending flag and the wait (R301, R360). -/
theorem step_of_pending_cases {s t : State} (hp : s.pending = true) (h : step s = .next t) :
    t.pending = false ∨ t.pending = true ∧ s.delay = t.delay + 1 := by
  rw [step, if_pos hp] at h
  split at h
  · exact .inl (coreStep_pending h)
  · next n hd =>
    cases ht : t.pending with
    | false => exact .inl rfl
    | true => exact .inr ⟨rfl, by rw [hd, hostTurn_delay (s := { s with delay := n }) hp ht h]⟩

/-! ### Runs -/

theorem run_succ_of_step {s u : State} (h : step s = .next u) (k : Nat) :
    Host.Core.run Sys2Proof.core (k + 1) s = Host.Core.run Sys2Proof.core k u := by
  have hstep : Sys2Proof.core.step s = .next u := h
  simp only [Host.Core.run, hstep]

theorem exists_step_of_run_succ {k : Nat} {s t : State} (h : Host.Core.run Sys2Proof.core (k + 1) s = .next t) :
    ∃ u, step s = .next u ∧ Host.Core.run Sys2Proof.core k u = .next t := by
  simp only [Host.Core.run] at h
  split at h
  · next u hu => exact ⟨u, hu, h⟩
  · cases h
  · cases h

/-- `k` steps all succeed and leave the command pending, and the next one leaves the pending state. -/
def LeavesPendingAfter (k : Nat) (s : State) : Prop :=
  ∃ u v, Host.Core.run Sys2Proof.core k s = .next u ∧ u.pending = true ∧ step u = .next v ∧ v.pending = false

theorem exists_leavesPendingAfter {d : Nat} {s t : State} (hd : s.delay = d) (hp : s.pending = true)
    (h : Host.Core.run Sys2Proof.core (d + 1) s = .next t) : ∃ k, k ≤ d ∧ LeavesPendingAfter k s := by
  induction d generalizing s with
  | zero =>
    obtain ⟨u, hu, -⟩ := exists_step_of_run_succ h
    obtain hleft | ⟨-, hdelay⟩ := step_of_pending_cases hp hu
    · exact ⟨0, Nat.le_refl 0, s, u, rfl, hp, hu, hleft⟩
    · omega
  | succ d ih =>
    obtain ⟨u, hu, hrest⟩ := exists_step_of_run_succ h
    obtain hleft | ⟨hpu, hdelay⟩ := step_of_pending_cases hp hu
    · exact ⟨0, Nat.zero_le _, s, u, rfl, hp, hu, hleft⟩
    · obtain ⟨k, hk, v, w, hrun, hv⟩ := ih (by omega) hpu hrest
      exact ⟨k + 1, Nat.succ_le_succ hk, v, w, (run_succ_of_step hu k).trans hrun, hv⟩

/-- Settles O25, by induction on the wait. -/
theorem pendingCommandLeavesPendingInTime : Obligations.PendingCommandLeavesPendingInTime := by
  intro s t hp h
  obtain ⟨k, hk, u, v, hleaves⟩ := exists_leavesPendingAfter rfl hp h
  exact ⟨k, u, v, hk, hleaves⟩

end Sys2Proof.Proofs
end

section
/-! Power-on reset (R340, R341): what the host and the rules see then, and what each command does as the first one, with
nothing written (R344). -/

namespace Sys2Proof.Proofs

open Sys2Proof Sys2Proof.Machine Sys2Proof.Spec

/-- Settles O8, by the machine's invariant at reset. -/
theorem resetMeetsTheMachineInvariant : Obligations.ResetMeetsTheMachineInvariant := inv_reset

/-- A soft reset with nothing pending and nothing written is the state after power-on reset. -/
theorem softReset_reset : State.reset.softReset = State.reset := rfl

/-- Settles O7: the registers as after a soft reset, and no byte and no cell. -/
theorem powerOnResetState : Obligations.PowerOnResetState :=
  ⟨fun r => softReset_reset ▸ readReg_softReset State.reset r, rfl, rfl, rfl, rfl, byteAt_eq_none_of_reset rfl rfl⟩

/-! ### The first command after reset (R344) -/

/-- The state after reset with `i` accepted and due. -/
def resetWith (i : Instr) : State := State.reset.withFetchWord 32 (encode i).toNat

theorem resetWith_cmdl (i : Instr) : (resetWith i).cmdl = encode i := by
  rw [resetWith, State.withFetchWord, Nat.mod_eq_of_lt (encode i).isLt, BitVec.ofNat_toNat, BitVec.setWidth_eq]
  rfl

/-- A command that is due is the next step. -/
theorem step_of_due {s : State} {i : Instr} (hp : s.pending = true) (hd : s.delay = 0) (hc : s.cmdl = encode i) :
    step s = exec i s := by
  simp [step, hp, hd, coreStep, hc, decode_encode]

theorem step_resetWith (i : Instr) : step (resetWith i) = exec i (resetWith i) :=
  step_of_due rfl rfl (resetWith_cmdl i)

theorem resetWith_unsupported (i : Instr) : unsupported (resetWith i) := .inl rfl

theorem step_resetWith_gfMul : step (resetWith .gfMul) = .next (succeeded (resetWith .gfMul)) := by
  have hresult : gmul (resetWith .gfMul).fieldArg0 (resetWith .gfMul).fieldArg1 = 0#8 := zero_gmul _
  rw [step_resetWith, execGfMul_eq, hresult]
  rfl

theorem step_resetWith_gfExp :
    step (resetWith .gfExp) = .next (succeeded { resetWith .gfExp with result := 1#32 }) := by
  have hresult : gfExp (resetWith .gfExp).fieldArg0 = 1#8 := gfExp_eq_alphaPow 0#8
  rw [step_resetWith, execGfExp_eq, hresult]
  rfl

theorem step_resetWith_gfLog : step (resetWith .gfLog) = .next (failed (resetWith .gfLog) 5#4 0x03#8) := by
  rw [step_resetWith]
  exact execGfLog_of_none gfLog?_zero

/-- GF_LOG of a written operand that is not 0 succeeds (R124). -/
theorem step_resetWith_gfLog_arg0 {v : Word} (hv : v.setWidth 8 ≠ 0#8) :
    ∃ t, step { resetWith .gfLog with arg0 := v } = .next t ∧ t.errCode = 0#4 ∧ t.err = false := by
  obtain ⟨p, hp⟩ := exists_gfLog? hv
  have hstep := step_of_due (s := { resetWith .gfLog with arg0 := v }) rfl rfl (resetWith_cmdl .gfLog)
  exact ⟨_, hstep.trans (execGfLog_of_some hp), rfl, rfl⟩

theorem step_resetWith_rsGen_explicit : step (resetWith (.rsGen true)) =
    .next (succeeded { resetWith (.rsGen true) with mem := [(0x280, 0x01#8)], result := 1#32 }) := by
  have hcount : (resetWith (.rsGen true)).genCount true = .ok 0 := genCount_explicit (Nat.zero_le 63)
  rw [step_resetWith, exec_eq_runStages]
  exact runStages_ok (by rw [bodyRsGen, hcount]; rfl)

theorem step_resetWith_rsEnc_explicit :
    step (resetWith (.rsEnc true)) = .next (succeeded (resetWith (.rsEnc true))) := by
  have hcounts : (resetWith (.rsEnc true)).encCounts true = .ok (0, 0) :=
    encCounts_explicit (Nat.zero_le 64) (Nat.zero_le 63)
  rw [step_resetWith, exec_eq_runStages]
  exact runStages_ok (by rw [bodyRsEnc, hcounts]; rfl)

/-- A command whose first stage raises an error fails with it. -/
theorem step_resetWith_of_error {i : Instr} {b : State → Body} {bs : List (State → Body)} {e : ErrCode} {stage : Byte}
    (hi : stages i = b :: bs) (h : b (resetWith i) = .error e stage) :
    step (resetWith i) = .next (failed (resetWith i) e.code stage) := by
  rw [step_resetWith, exec_eq_runStages, hi, runStages_error h, raise_eq_failed]

theorem step_resetWith_maskScore (m : BitVec 3) :
    step (resetWith (.maskScore m)) = .next (failed (resetWith (.maskScore m)) 4#4 0x09#8) :=
  step_resetWith_of_error rfl (bodyMaskScore_of_not_placed m fun _ h => nomatch h)

/-- Settles O10: what needs no CONFIG and no byte succeeds; MASK_SCORE finds no matrix, GF_LOG the operand 0, and every
other command an unsupported version in its first stage. -/
theorem commandsRightAfterReset : Obligations.CommandsRightAfterReset := by
  have hbad := resetWith_unsupported
  exact ⟨(step_resetWith .nop).trans (nopOnlyCompletes _), step_resetWith_gfMul, step_resetWith_gfExp,
    step_resetWith_gfLog, fun _ => step_resetWith_gfLog_arg0, step_resetWith_rsGen_explicit,
    step_resetWith_rsEnc_explicit, step_resetWith_maskScore,
    (step_resetWith _).trans (execRsGen_of_error (genCount_config_of_unsupported (hbad _))),
    (step_resetWith _).trans (execRsEnc_of_error (encCounts_config_of_unsupported (hbad _))),
    step_resetWith_of_error rfl (bodyBsBuild_of_unsupported (hbad _)),
    step_resetWith_of_error rfl (bodyMxBuild_of_unsupported (hbad _)),
    step_resetWith_of_error rfl (bodyMxPlace_of_unsupported (hbad _)),
    step_resetWith_of_error rfl (bodyMaskSelect_of_unsupported (hbad _)),
    step_resetWith_of_error rfl (bodyTblCap_of_unsupported (hbad _)),
    step_resetWith_of_error rfl (bodyTblGeom_of_unsupported (hbad _)),
    fun m => step_resetWith_of_error rfl (bodyTblFmt_of_unsupported (hbad _) m),
    step_resetWith_of_error rfl (bodyBsBuild_of_unsupported (hbad _))⟩

end Sys2Proof.Proofs
end
